-- ==== Sys2Proof/Word.lean ====
section
/-! DEFINITION. The word types of the AES-GF engine: the byte of its data bus and the address of its port. -/

namespace Sys2Proof

/-- The 8-bit byte of the data bus; as a field element, bit `i` is the coefficient of `x^i` (R8). -/
abbrev Byte := BitVec 8

/-- A byte address on the engine's own port, 0x0000..0xFFFF (R60). -/
abbrev Addr := BitVec 16

end Sys2Proof
end

