-- ==== Sys2Proof/Syntax.lean ====
section
/-! DEFINITION. The commands of the AES-GF engine, one constructor per row of the opcode map (30_encoding.md R94).
A command is one opcode byte and carries no operand (R90, R97), so no constructor has an argument. -/

namespace Sys2Proof

/-- The 24 commands of R94, in the table's order. -/
inductive Instr where
  /-- NOP, 0x00 (R120) -/
  | nop
  /-- GF_MUL, 0x01 (R121) -/
  | gfMul
  /-- GF_INV, 0x02 (R122) -/
  | gfInv
  /-- GF_MUL2, 0x03 (R123) -/
  | gfMul2
  /-- GF_MUL3, 0x04 (R124) -/
  | gfMul3
  /-- GF_MUL9, 0x05 (R125) -/
  | gfMul9
  /-- GF_MUL11, 0x06 (R126) -/
  | gfMul11
  /-- GF_MUL13, 0x07 (R127) -/
  | gfMul13
  /-- GF_MUL14, 0x08 (R128) -/
  | gfMul14
  /-- GEN_SBOX, 0x10 (R150) -/
  | genSbox
  /-- GEN_INV_SBOX, 0x11 (R151) -/
  | genInvSbox
  /-- GEN_FWD_FROM_INV, 0x12 (R152) -/
  | genFwdFromInv
  /-- KEY_EXPAND, 0x20 (R167) -/
  | keyExpand
  /-- ENC_BLOCK, 0x21 (R200) -/
  | encBlock
  /-- DEC_BLOCK, 0x22 (R201) -/
  | decBlock
  /-- CBC_ENC, 0x30 (R230) -/
  | cbcEnc
  /-- CBC_DEC, 0x31 (R231) -/
  | cbcDec
  /-- SUB_BYTES, 0x40 (R205) -/
  | subBytes
  /-- SHIFT_ROWS, 0x41 (R206) -/
  | shiftRows
  /-- MIX_COLUMNS, 0x42 (R207) -/
  | mixColumns
  /-- ADD_ROUND_KEY, 0x43 (R208) -/
  | addRoundKey
  /-- INV_SUB_BYTES, 0x44 (R209) -/
  | invSubBytes
  /-- INV_SHIFT_ROWS, 0x45 (R210) -/
  | invShiftRows
  /-- INV_MIX_COLUMNS, 0x46 (R211) -/
  | invMixColumns
deriving DecidableEq, Repr

end Sys2Proof
end

