-- ==== Sys2Proof/WellFormed.lean ====
section
/-! DEFINITION. What can be ill-formed here. An `Instr` cannot: a command has no immediate, no register field and no
mode bit (R90, R97, R98). What can be is the command byte a host presents (R95) and the implementation parameter
BUF_BYTES (R6). Both checks are written from the spec's ranges, not from the decoder. -/

namespace Sys2Proof

/-- A command byte names a command, by its family and function fields (the ranges left over by R95). -/
def Opcode.wf (opc : Byte) : Bool :=
  match opc.toNat / 16, opc.toNat % 16 with
  | 0, fn => decide (fn ≤ 8)
  | 1, fn => decide (fn ≤ 2)
  | 2, fn => decide (fn ≤ 2)
  | 3, fn => decide (fn ≤ 1)
  | 4, fn => decide (fn ≤ 6)
  | _, _ => false

/-- The constraints on BUF_BYTES: a multiple of 16, from 32 to 16384 (R6). -/
def BufBytes.wf (n : Nat) : Bool :=
  decide (n % 16 = 0) && decide (32 ≤ n) && decide (n ≤ 16384)

end Sys2Proof
end

