-- ==== Sys2Proof/Decode.lean ====
section
/-! DEFINITION. Decoding a command byte (30_encoding.md R94, R95, R100), and after it the encoder, written from the
family and function columns of the same table. Decoding is total: a byte that names no command is rejected by name. -/

namespace Sys2Proof

/-- Why a command byte is not decoded. -/
inductive DecodeError where
  /-- The byte names no command (R95); the engine accepts it and completes it with IllegalCommand. -/
  | illegalCommand (opc : Byte)
deriving DecidableEq, Repr

/-- The OPC and operation columns of R94's opcode map. -/
def opcodeTable : List (Byte × Instr) :=
  [(0x00, .nop), (0x01, .gfMul), (0x02, .gfInv), (0x03, .gfMul2), (0x04, .gfMul3), (0x05, .gfMul9),
   (0x06, .gfMul11), (0x07, .gfMul13), (0x08, .gfMul14),
   (0x10, .genSbox), (0x11, .genInvSbox), (0x12, .genFwdFromInv),
   (0x20, .keyExpand), (0x21, .encBlock), (0x22, .decBlock),
   (0x30, .cbcEnc), (0x31, .cbcDec),
   (0x40, .subBytes), (0x41, .shiftRows), (0x42, .mixColumns), (0x43, .addRoundKey), (0x44, .invSubBytes),
   (0x45, .invShiftRows), (0x46, .invMixColumns)]

/-- Decode a command byte: all 8 bits are compared (mask 0xFF, R94). -/
def decode (opc : Byte) : Except DecodeError Instr :=
  match opcodeTable.lookup opc with
  | some i => .ok i
  | none => .error (.illegalCommand opc)

/-- The FAM column of R94. -/
def familyCode : Instr → BitVec 4
  | .nop => 0x0 | .gfMul => 0x0 | .gfInv => 0x0 | .gfMul2 => 0x0 | .gfMul3 => 0x0 | .gfMul9 => 0x0
  | .gfMul11 => 0x0 | .gfMul13 => 0x0 | .gfMul14 => 0x0
  | .genSbox => 0x1 | .genInvSbox => 0x1 | .genFwdFromInv => 0x1
  | .keyExpand => 0x2 | .encBlock => 0x2 | .decBlock => 0x2
  | .cbcEnc => 0x3 | .cbcDec => 0x3
  | .subBytes => 0x4 | .shiftRows => 0x4 | .mixColumns => 0x4 | .addRoundKey => 0x4 | .invSubBytes => 0x4
  | .invShiftRows => 0x4 | .invMixColumns => 0x4

/-- The FN column of R94. -/
def functionCode : Instr → BitVec 4
  | .nop => 0x0 | .gfMul => 0x1 | .gfInv => 0x2 | .gfMul2 => 0x3 | .gfMul3 => 0x4 | .gfMul9 => 0x5
  | .gfMul11 => 0x6 | .gfMul13 => 0x7 | .gfMul14 => 0x8
  | .genSbox => 0x0 | .genInvSbox => 0x1 | .genFwdFromInv => 0x2
  | .keyExpand => 0x0 | .encBlock => 0x1 | .decBlock => 0x2
  | .cbcEnc => 0x0 | .cbcDec => 0x1
  | .subBytes => 0x0 | .shiftRows => 0x1 | .mixColumns => 0x2 | .addRoundKey => 0x3 | .invSubBytes => 0x4
  | .invShiftRows => 0x5 | .invMixColumns => 0x6

/-- The command byte: FAM in bits 7:4, FN in bits 3:0 (R90). -/
def encode (i : Instr) : Byte := familyCode i ++ functionCode i

/-- The command the decoder reads from an instruction word numbered as the opcode table numbers it. A command is one
byte (R98), so the word's first byte, cut to `nbits`, is the whole of it. -/
def decodeTableWord (nbits w : Nat) : Option Instr :=
  (decode (BitVec.ofNat 8 (w % 2 ^ nbits))).toOption

end Sys2Proof
end

