-- ==== Sys2Proof/Machine/Bits.lean ====
section
/-! DEFINITION. Bit and byte helpers of 00_scope.md R8 to R12: assembling bits LSB-first, parity, and the two bytes of
a 16-bit register (R66). -/

namespace Sys2Proof.Machine

/-- Assemble bits LSB-first: the element at position `i` is the bit of weight `2^i` (R8). -/
def byteOfBits : List Bool → Byte
  | [] => 0
  | b :: bs => (byteOfBits bs <<< 1) ||| (if b then 1 else 0)

/-- The bits of a byte, bit 0 first (R8). -/
def bitsOf (v : Byte) : List Bool := (List.range 8).map fun i => v.getLsbD i

/-- The number of 1 bits (R12). -/
def popcount (v : Byte) : Nat := (bitsOf v).count true

/-- `popcount(v) mod 2`, as a bit (R12). -/
def parity (v : Byte) : Bool := popcount v % 2 == 1

/-- Byte 0 (bits 7:0) or byte 1 (bits 15:8) of a 16-bit register (R66). -/
def wordByte (w : BitVec 16) (k : Nat) : Byte := (w >>> (8 * k)).setWidth 8

/-- A 16-bit register with its byte 0 or byte 1 replaced (R66). -/
def setWordByte (w : BitVec 16) (k : Nat) (v : Byte) : BitVec 16 :=
  if k = 0 then wordByte w 1 ++ v else v ++ wordByte w 0

end Sys2Proof.Machine
end

