-- ==== Sys2Proof/Machine/Field.lean ====
section
/-! DEFINITION. GF(2^8) arithmetic (40_gf_arithmetic.md R110 to R113). The constant tables GFINV and MULk are these
functions: every lookup yields the byte the function gives (R40, R113). -/

namespace Sys2Proof.Machine

/-- One doubling of `a` with its reduction by 0x11B, in the 9 bits of R110. -/
def xtime (a : Byte) : Byte :=
  let t : BitVec 9 := a.setWidth 9 <<< 1
  let t := if t.getLsbD 8 then t ^^^ 0x11B#9 else t
  t.setWidth 8

/-- The loop body of R110, repeated as often as the first argument says. -/
def gmulLoop : Nat → Byte → Byte → Byte → Byte
  | 0, _, _, acc => acc
  | n + 1, a, b, acc => gmulLoop n (xtime a) (b >>> 1) (if b.getLsbD 0 then acc ^^^ a else acc)

/-- The product in GF(2^8): 8 rounds of shift and reduce, from a zero accumulator (R110). -/
def gmul (a b : Byte) : Byte := gmulLoop 8 a b 0x00

/-- The first `y` counting down from `n` to 1 with `gmul(x, y) = 0x01`, 0x00 if there is none. -/
def ginvSearch (x : Byte) : Nat → Byte
  | 0 => 0x00
  | n + 1 => if gmul x (BitVec.ofNat 8 (n + 1)) = 0x01 then BitVec.ofNat 8 (n + 1) else ginvSearch x n

/-- The multiplicative inverse: the unique `y` in 0x01..0xFF with `gmul(x, y) = 0x01`, and 0x00 for 0x00 (R111). -/
def ginv (x : Byte) : Byte := if x = 0x00 then 0x00 else ginvSearch x 255

/-- An entry of a constant multiplier table MULk, `gmul(x, k)` (R40). -/
def mulTable (k x : Byte) : Byte := gmul x k

/-- An entry of the constant table GFINV (R40). -/
def gfinvTable (x : Byte) : Byte := ginv x

end Sys2Proof.Machine
end

