-- ==== Sys2Proof/Config.lean ====
section
/-! DEFINITION. What an implementation fixes, and the free values: the values the spec leaves unspecified (R7,
93_implementation_defined.md I1 and I3 to I7). A free value has no body, so nothing can be proved of which value it is
and every claim holds for all of them. Each is applied to a plain counter that State holds. -/

namespace Sys2Proof

/-- The spec's default of the parameter BUF_BYTES (R6, D5). State.reset uses it; every claim is about whatever legal
value State holds (assumption 5). -/
def Config.defaultBufBytes : BitVec 16 := 4096#16

/-- FREE VALUE (assumption 1; DESIGN CHOICE, unsafe). What the data-store byte at a bus address reads as while it is not
defined (R281, I1, I6, I7): first argument the number of reset events so far, second the address. -/
opaque Config.resetByte : Nat → Nat → Byte

/-- FREE VALUE (assumption 3; DESIGN CHOICE, safe). The byte a read made while BUSY = 1 returns at an address R70 gives no
value (I3), by the draw counter. -/
opaque Config.busyByte : Nat → Byte

/-- FREE VALUE (assumption 3; DESIGN CHOICE, safe). STATUS bits 5:4 in a read made while BUSY = 1 (R70, I4), by the draw
counter. -/
opaque Config.busyBij : Nat → BitVec 2

/-- FREE VALUE (assumption 4; DESIGN CHOICE, safe). STATUS.SBOX_BIJ while a byte of SBOX is not defined (R29, I5), by the
draw counter. -/
opaque Config.undefinedSboxBij : Nat → Bool

/-- FREE VALUE (assumption 4; DESIGN CHOICE, safe). STATUS.ISBOX_BIJ while a byte of ISBOX is not defined (R29, I5), by
the draw counter. -/
opaque Config.undefinedIsboxBij : Nat → Bool

end Sys2Proof
end

