-- ==== Sys2Proof/Machine/State.lean ====
section
/-! DEFINITION. The engine's state (10_state.md R22), as plain data, and the state after reset (R280).

The registers are fields. The data stores MATRIX, CONST, KEY, IV, BLK, SBOX, ISBOX, EXPKEY, DIN and DOUT are one
memory, keyed by bus address (R22, R62): a byte that is defined (R281) is listed, a byte that is not defined is not.
The constant tables GFINV and MULk are functions of the index (R40, R113) and need no field. -/

namespace Sys2Proof.Machine

/-- What can happen next to the engine, as seen from its port: the host's transactions (R13), the reset event (R280),
and the turn of the command unit. The order in which the two agents move is data of the state (DESIGN CHOICE, safe:
assumption 2). -/
inductive Event where
  /-- `MemRead(addr, 1)` by the host -/
  | read (addr : Addr)
  /-- `MemWrite(addr, 1, v)` by the host -/
  | write (addr : Addr) (v : Byte)
  /-- the command unit's turn: it completes the command in flight (R93), if there is one -/
  | complete
  /-- the reset event (R280) -/
  | reset
deriving DecidableEq, Repr

/-- Why a step stops the machine: no reason exists. The engine has no trap (R250), every access to every address has an
outcome (R72), and the machine goes on after a read of an undefined byte with a free value (assumption 1). -/
inductive Fault where
deriving DecidableEq, Repr

/-- Why a command has no meaning. -/
inductive Refusal where
  /-- Raised by no arm of exec: every command of R94 has its meaning. Safe: it would stop the machine. -/
  | notModelled (mnemonic : String)
deriving DecidableEq, Repr

/-- The engine's architectural state (R22), and after it the fields that are the model's own. -/
structure State where
  /-- CMD / LASTCMD, 0x0000: the last byte accepted as a command (R23) -/
  lastCmd : Byte
  /-- STATUS.BUSY, bit 0 (R25) -/
  busy : Bool
  /-- STATUS.DONE, bit 1 (R26) -/
  doneFlag : Bool
  /-- STATUS.ERR, bit 2 (R27) -/
  err : Bool
  /-- STATUS.OVR, bit 3 (R28) -/
  ovr : Bool
  /-- ERRCODE, 0x0002 (R30) -/
  errCode : Byte
  /-- OPA, 0x0003 (R32) -/
  opa : Byte
  /-- OPB, 0x0004 (R32) -/
  opb : Byte
  /-- RESULT, 0x0005 (R32) -/
  result : Byte
  /-- LEN, 0x0006 and 0x0007 (R33) -/
  len : BitVec 16
  /-- OUTLEN, 0x0008 and 0x0009 (R34) -/
  outLen : BitVec 16
  /-- BUFSZ, 0x000A and 0x000B: the parameter BUF_BYTES, which no step changes (R6, R31) -/
  bufBytes : BitVec 16
  /-- the defined bytes of the data stores, by bus address, addresses strictly rising (R35 to R41, R281) -/
  mem : List Host.Cell
  /-- MODEL'S OWN: the events to come, first to happen first -/
  schedule : List Event
  /-- MODEL'S OWN: the byte the bus returned to the host's latest read, none before the first -/
  busData : Option Byte
  /-- MODEL'S OWN: the counter the free values of Config are drawn by -/
  draws : Nat
  /-- MODEL'S OWN: how many reset events there have been -/
  epoch : Nat
deriving DecidableEq, Repr

/-- The state right after the first reset (R280, R281, R284): the control registers zero, no byte of a data store
defined, the engine idle; and the model's own fields at the values assumption 6 names. -/
def State.reset : State where
  lastCmd := 0x00
  busy := false
  doneFlag := false
  err := false
  ovr := false
  errCode := 0x00
  opa := 0x00
  opb := 0x00
  result := 0x00
  len := 0x0000
  outLen := 0x0000
  bufBytes := Config.defaultBufBytes
  mem := []
  schedule := []
  busData := none
  draws := 0
  epoch := 0

end Sys2Proof.Machine
end

