-- ==== Sys2Proof/Machine/Ops.lean ====
section
/-! DEFINITION. The named operations over memory and the registers: reading and writing the data stores, accepting a
command (R92), completing it with success or with an error (R93, R252, R253, R260: what an exception's entry is on this
engine), and the reset event (R280). There is no return from an error: the next acceptance clears it (R261). -/

namespace Sys2Proof.Machine

/-- The byte listed at an address: none where nothing is defined (R281). -/
def Memory.read : List Host.Cell → Nat → Option Byte
  | [], _ => none
  | (b, v) :: rest, a => if b = a then some v else Memory.read rest a

/-- Store one byte, keeping the addresses strictly rising. -/
def Memory.write : List Host.Cell → Nat → Byte → List Host.Cell
  | [], a, v => [(a, v)]
  | (b, w) :: rest, a, v =>
    if a < b then (a, v) :: (b, w) :: rest
    else if a = b then (a, v) :: rest
    else (b, w) :: Memory.write rest a v

/-- Store a byte sequence, element `i` at base + i (R62). -/
def Memory.writeBlock : List Host.Cell → Nat → List Byte → List Host.Cell
  | m, _, [] => m
  | m, a, v :: vs => Memory.writeBlock (Memory.write m a v) (a + 1) vs

/-- The canonical form: addresses strictly rising. An unlisted byte reads as none, so no entry can equal what an
unlisted address reads as. -/
abbrev Memory.wf (m : List Host.Cell) : Prop := (m.map Prod.fst).Pairwise (· < ·)

/-- The byte a data store holds at an address: a byte that is not defined reads as a free value (R281,
assumption 1), the same at each read until it is written or the engine is reset (R67). -/
def State.load (s : State) (a : Nat) : Byte :=
  (Memory.read s.mem a).getD (Config.resetByte s.epoch a)

/-- The `n` bytes of a data store from a base address, element `i` at base + i (R62). -/
def State.loadBlock (s : State) (base n : Nat) : List Byte :=
  (List.range n).map fun i => s.load (base + i)

/-- Every one of the `n` bytes from a base address is defined (R281). -/
def State.defined (s : State) (base n : Nat) : Bool :=
  (List.range n).all fun i => (Memory.read s.mem (base + i)).isSome

/-- Store a byte in a data store; it is defined from then on (R281). -/
def State.storeByte (s : State) (a : Nat) (v : Byte) : State :=
  { s with mem := Memory.write s.mem a v }

/-- Store a byte sequence in a data store, element `i` at base + i (R11, R62). -/
def State.storeBlock (s : State) (base : Nat) (vs : List Byte) : State :=
  { s with mem := Memory.writeBlock s.mem base vs }

/-- The errors a command can raise (R251). InvalidRange, code 0x02, has no constructor: no command ever raises it
(R257). -/
inductive CmdError where
  /-- CBC_DEC: LEN is no multiple of 16 -/
  | invalidLength
  /-- the table a command substitutes through has a repeated value -/
  | nonBijectiveSbox
  /-- the byte names no command -/
  | illegalCommand
  /-- CBC_ENC, CBC_DEC: the input or output does not fit BUF_BYTES -/
  | capacityExceeded
  /-- ADD_ROUND_KEY: OPA is above 10 -/
  | invalidOperand
deriving DecidableEq, Repr

/-- The code ERRCODE records for an error (R251). -/
def CmdError.code : CmdError → Byte
  | .invalidLength => 0x01
  | .nonBijectiveSbox => 0x03
  | .illegalCommand => 0x04
  | .capacityExceeded => 0x05
  | .invalidOperand => 0x06

/-- What a command returns: the state with its writes applied, or an error (R100). -/
abbrev CmdResult := Except CmdError State

/-- Completion of a command that succeeded (R93). -/
def State.succeed (s : State) : State :=
  { s with errCode := 0x00, err := false, busy := false, doneFlag := true }

/-- Completion of a command that raised an error: ERRCODE and ERR record it and nothing else is written
(R93, R253, R260). -/
def State.failWith (s : State) (e : CmdError) : State :=
  { s with errCode := e.code, err := true, busy := false, doneFlag := true }

/-- Completion, in one atomic step (R93). -/
def State.complete (s : State) : CmdResult → State
  | .ok t => t.succeed
  | .error e => s.failWith e

/-- Acceptance of command byte `v`, legal or not (R92). -/
def State.accept (s : State) (v : Byte) : State :=
  { s with lastCmd := v, doneFlag := false, err := false, ovr := false, errCode := 0x00, busy := true }

/-- A host write dropped because BUSY = 1 (R69, R28). -/
def State.dropWrite (s : State) : State := { s with ovr := true }

/-- The bus returns a byte to the host. -/
def State.answer (s : State) (v : Byte) : State := { s with busData := some v }

/-- The free values drawn from here on are new ones. -/
def State.nextDraw (s : State) : State := { s with draws := s.draws + 1 }

/-- The events to come after the one that happens now. -/
def State.setSchedule (s : State) (es : List Event) : State := { s with schedule := es }

/-- The reset event, at any time (R280, R282): every item takes its reset value and a command in flight is abandoned.
BUF_BYTES is a parameter and the events still to come are the outside world's; the free values after it are new (DESIGN
CHOICE, safe: assumption 6). -/
def State.hardReset (s : State) : State :=
  { State.reset with
    bufBytes := s.bufBytes, schedule := s.schedule, draws := s.draws + 1, epoch := s.epoch + 1 }

end Sys2Proof.Machine
end

