-- ==== Sys2Proof/Machine/Operands.lean ====
section
/-! DEFINITION. The state table of 10_state.md R22: every item with its bus address and size, which item an address
names (R60, R62), and the implicit operands of the commands (R97): fixed arrays of that table, read whole. -/

namespace Sys2Proof.Machine

/-- The items of R22. -/
inductive Item where
  | cmd | status | errcode | opa | opb | result | len | outlen | bufsz
  | matrix | const | key | iv | blk | sbox | isbox | expkey
  | gfinv | mul2 | mul3 | mul9 | mul11 | mul13 | mul14 | din | dout
deriving DecidableEq, Repr

/-- R22's rows in order. -/
def Item.all : List Item :=
  [.cmd, .status, .errcode, .opa, .opb, .result, .len, .outlen, .bufsz,
   .matrix, .const, .key, .iv, .blk, .sbox, .isbox, .expkey,
   .gfinv, .mul2, .mul3, .mul9, .mul11, .mul13, .mul14, .din, .dout]

/-- The base address of an item (R22, R101). -/
def Item.base : Item → Nat
  | .cmd => 0x0000 | .status => 0x0001 | .errcode => 0x0002 | .opa => 0x0003 | .opb => 0x0004
  | .result => 0x0005 | .len => 0x0006 | .outlen => 0x0008 | .bufsz => 0x000A
  | .matrix => 0x0010 | .const => 0x0018 | .key => 0x0020 | .iv => 0x0030 | .blk => 0x0040
  | .sbox => 0x0100 | .isbox => 0x0200 | .expkey => 0x0300
  | .gfinv => 0x0400 | .mul2 => 0x0500 | .mul3 => 0x0600 | .mul9 => 0x0700 | .mul11 => 0x0800
  | .mul13 => 0x0900 | .mul14 => 0x0A00 | .din => 0x4000 | .dout => 0x8000

/-- The size of an item in bytes, with BUF_BYTES for the two buffers (R22). -/
def Item.size (bufBytes : Nat) : Item → Nat
  | .cmd => 1 | .status => 1 | .errcode => 1 | .opa => 1 | .opb => 1
  | .result => 1 | .len => 2 | .outlen => 2 | .bufsz => 2
  | .matrix => 8 | .const => 1 | .key => 16 | .iv => 16 | .blk => 16
  | .sbox => 256 | .isbox => 256 | .expkey => 176
  | .gfinv => 256 | .mul2 => 256 | .mul3 => 256 | .mul9 => 256 | .mul11 => 256
  | .mul13 => 256 | .mul14 => 256 | .din => bufBytes | .dout => bufBytes

/-- The data stores, whose bytes memory holds (R35 to R39, R41). -/
def Item.isStore : Item → Bool
  | .cmd => false | .status => false | .errcode => false | .opa => false | .opb => false
  | .result => false | .len => false | .outlen => false | .bufsz => false
  | .matrix => true | .const => true | .key => true | .iv => true | .blk => true
  | .sbox => true | .isbox => true | .expkey => true
  | .gfinv => false | .mul2 => false | .mul3 => false | .mul9 => false | .mul11 => false
  | .mul13 => false | .mul14 => false | .din => true | .dout => true

/-- The items the host may write while the engine is idle: the W of R22's access column (R68). -/
def Item.hostWritable : Item → Bool
  | .cmd => true | .status => false | .errcode => false | .opa => true | .opb => true
  | .result => false | .len => true | .outlen => false | .bufsz => false
  | .matrix => true | .const => true | .key => true | .iv => true | .blk => true
  | .sbox => true | .isbox => true | .expkey => false
  | .gfinv => false | .mul2 => false | .mul3 => false | .mul9 => false | .mul11 => false
  | .mul13 => false | .mul14 => false | .din => true | .dout => false

/-- An address lies in an item. -/
def Item.holds (bufBytes : Nat) (it : Item) (a : Nat) : Bool :=
  decide (it.base ≤ a) && decide (a < it.base + it.size bufBytes)

/-- The item an address names, none for a reserved address (R60). With a legal BUF_BYTES no two items share an address; with
another the first row of R22 is taken (DESIGN CHOICE, safe: assumption 12). -/
def itemAt (bufBytes a : Nat) : Option Item := Item.all.find? fun it => it.holds bufBytes a

/-- The bytes of BUF_BYTES as a number (R31). -/
def State.capacity (s : State) : Nat := s.bufBytes.toNat

/-- MATRIX[0..8) (R35). -/
def State.matrix (s : State) : List Byte := s.loadBlock Item.matrix.base 8

/-- CONST (R35). -/
def State.const (s : State) : Byte := s.load Item.const.base

/-- KEY[0..16) (R37). -/
def State.key (s : State) : List Byte := s.loadBlock Item.key.base 16

/-- IV[0..16) (R37). -/
def State.iv (s : State) : List Byte := s.loadBlock Item.iv.base 16

/-- BLK[0..16) (R38). -/
def State.blk (s : State) : List Byte := s.loadBlock Item.blk.base 16

/-- SBOX[0..256) (R39). -/
def State.sbox (s : State) : List Byte := s.loadBlock Item.sbox.base 256

/-- ISBOX[0..256) (R39). -/
def State.isbox (s : State) : List Byte := s.loadBlock Item.isbox.base 256

/-- EXPKEY[0..176) (R41). -/
def State.expkey (s : State) : List Byte := s.loadBlock Item.expkey.base 176

/-- DIN[0..n) (R36). -/
def State.din (s : State) (n : Nat) : List Byte := s.loadBlock Item.din.base n

/-- DOUT[0..n) (R36). -/
def State.dout (s : State) (n : Nat) : List Byte := s.loadBlock Item.dout.base n

/-- BLK[0..16) <- vs (R38). -/
def State.setBlk (s : State) (vs : List Byte) : State := s.storeBlock Item.blk.base vs

/-- SBOX[0..256) <- vs (R39). -/
def State.setSbox (s : State) (vs : List Byte) : State := s.storeBlock Item.sbox.base vs

/-- ISBOX[0..256) <- vs (R39). -/
def State.setIsbox (s : State) (vs : List Byte) : State := s.storeBlock Item.isbox.base vs

/-- EXPKEY[0..176) <- vs (R41). -/
def State.setExpkey (s : State) (vs : List Byte) : State := s.storeBlock Item.expkey.base vs

/-- DOUT[0..len(vs)) <- vs (R36). -/
def State.setDout (s : State) (vs : List Byte) : State := s.storeBlock Item.dout.base vs

/-- RESULT <- v (R32). -/
def State.setResult (s : State) (v : Byte) : State := { s with result := v }

/-- OUTLEN <- n (R34). -/
def State.setOutLen (s : State) (n : Nat) : State := { s with outLen := BitVec.ofNat 16 n }

end Sys2Proof.Machine
end

