-- ==== Sys2Proof/Machine/Flags.lean ====
section
/-! DEFINITION. The flags of the engine, which are the STATUS bits and nothing else (R24 to R29, R42), and the
bijectivity test behind two of them (R146). -/

namespace Sys2Proof.Machine

/-- No value of a sequence occurs twice, nor is one of those already seen; `seen` has bit `v` set for a value `v`
seen. -/
def distinctFrom (seen : Nat) : List Byte → Bool
  | [] => true
  | v :: vs => !seen.testBit v.toNat && distinctFrom (seen ||| 1 <<< v.toNat) vs

/-- The 256-distinct-values check: the entries of a table are pairwise distinct (R146). -/
def bijective (t : List Byte) : Bool := distinctFrom 0 t

/-- STATUS.SBOX_BIJ while idle: computed from the table, unspecified while a byte of it is not defined (R29). -/
def State.sboxBij (s : State) : Bool :=
  if s.defined Item.sbox.base 256 then bijective s.sbox else Config.undefinedSboxBij s.draws

/-- STATUS.ISBOX_BIJ while idle (R29). -/
def State.isboxBij (s : State) : Bool :=
  if s.defined Item.isbox.base 256 then bijective s.isbox else Config.undefinedIsboxBij s.draws

/-- The STATUS byte with BUSY = 0: bits 7:6 read 0 (R24). -/
def State.statusByte (s : State) : Byte :=
  byteOfBits [s.busy, s.doneFlag, s.err, s.ovr, s.sboxBij, s.isboxBij, false, false]

/-- The STATUS byte with BUSY = 1: DONE and ERR read 0 and bits 5:4 are unspecified (R70). -/
def State.busyStatusByte (s : State) : Byte :=
  byteOfBits [true, false, false, s.ovr, (Config.busyBij s.draws).getLsbD 0, (Config.busyBij s.draws).getLsbD 1,
    false, false]

end Sys2Proof.Machine
end

