-- ==== Sys2Proof/Machine/Bus.lean ====
section
/-! DEFINITION. The host's bus transactions (20_memory.md R63, R67 to R71) and the decoding of the command in flight
(R92, R100). Every transaction moves one byte, and every address has an outcome. -/

namespace Sys2Proof.Machine

/-- Byte `k` of an item, as an idle read returns it (R68). -/
def State.itemByte (s : State) : Item → Nat → Byte
  | .cmd, _ => s.lastCmd
  | .status, _ => s.statusByte
  | .errcode, _ => s.errCode
  | .opa, _ => s.opa
  | .opb, _ => s.opb
  | .result, _ => s.result
  | .len, k => wordByte s.len k
  | .outlen, k => wordByte s.outLen k
  | .bufsz, k => wordByte s.bufBytes k
  | .matrix, k => s.load (Item.matrix.base + k)
  | .const, k => s.load (Item.const.base + k)
  | .key, k => s.load (Item.key.base + k)
  | .iv, k => s.load (Item.iv.base + k)
  | .blk, k => s.load (Item.blk.base + k)
  | .sbox, k => s.load (Item.sbox.base + k)
  | .isbox, k => s.load (Item.isbox.base + k)
  | .expkey, k => s.load (Item.expkey.base + k)
  | .gfinv, k => gfinvTable (BitVec.ofNat 8 k)
  | .mul2, k => mulTable 0x02 (BitVec.ofNat 8 k)
  | .mul3, k => mulTable 0x03 (BitVec.ofNat 8 k)
  | .mul9, k => mulTable 0x09 (BitVec.ofNat 8 k)
  | .mul11, k => mulTable 0x0B (BitVec.ofNat 8 k)
  | .mul13, k => mulTable 0x0D (BitVec.ofNat 8 k)
  | .mul14, k => mulTable 0x0E (BitVec.ofNat 8 k)
  | .din, k => s.load (Item.din.base + k)
  | .dout, k => s.load (Item.dout.base + k)

/-- The byte a read with BUSY = 0 returns: 0x00 at a reserved address (R68). -/
def State.idleByte (s : State) (a : Nat) : Byte :=
  match itemAt s.capacity a with
  | some it => s.itemByte it (a - it.base)
  | none => 0x00

/-- Byte `k` of an item, as a read with BUSY = 1 returns it: LASTCMD, STATUS, ERRCODE, BUFSZ and the constant tables
are defined, every other item reads as a free value (R70). -/
def State.busyItemByte (s : State) : Item → Nat → Byte
  | .cmd, _ => s.lastCmd
  | .status, _ => s.busyStatusByte
  | .errcode, _ => 0x00
  | .bufsz, k => s.itemByte .bufsz k
  | .gfinv, k => s.itemByte .gfinv k
  | .mul2, k => s.itemByte .mul2 k
  | .mul3, k => s.itemByte .mul3 k
  | .mul9, k => s.itemByte .mul9 k
  | .mul11, k => s.itemByte .mul11 k
  | .mul13, k => s.itemByte .mul13 k
  | .mul14, k => s.itemByte .mul14 k
  | .opa, _ => Config.busyByte s.draws
  | .opb, _ => Config.busyByte s.draws
  | .result, _ => Config.busyByte s.draws
  | .len, _ => Config.busyByte s.draws
  | .outlen, _ => Config.busyByte s.draws
  | .matrix, _ => Config.busyByte s.draws
  | .const, _ => Config.busyByte s.draws
  | .key, _ => Config.busyByte s.draws
  | .iv, _ => Config.busyByte s.draws
  | .blk, _ => Config.busyByte s.draws
  | .sbox, _ => Config.busyByte s.draws
  | .isbox, _ => Config.busyByte s.draws
  | .expkey, _ => Config.busyByte s.draws
  | .din, _ => Config.busyByte s.draws
  | .dout, _ => Config.busyByte s.draws

/-- The byte a read with BUSY = 1 returns (R70). -/
def State.busyByte (s : State) (a : Nat) : Byte :=
  match itemAt s.capacity a with
  | some it => s.busyItemByte it (a - it.base)
  | none => 0x00

/-- `MemRead(a, 1)`: no effect on any item (R67). A read with BUSY = 1 may have used up a draw (R70). -/
def State.busRead (s : State) (a : Nat) : State :=
  if s.busy then (s.answer (s.busyByte a)).nextDraw else s.answer (s.idleByte a)

/-- A write to byte `k` of an item with BUSY = 0: a read-write item stores it, a read-only item ignores it, and CMD
issues a command (R68). -/
def State.setItemByte (s : State) : Item → Nat → Byte → State
  | .cmd, _, v => s.accept v
  | .opa, _, v => { s with opa := v }
  | .opb, _, v => { s with opb := v }
  | .len, k, v => { s with len := setWordByte s.len k v }
  | .matrix, k, v => s.storeByte (Item.matrix.base + k) v
  | .const, k, v => s.storeByte (Item.const.base + k) v
  | .key, k, v => s.storeByte (Item.key.base + k) v
  | .iv, k, v => s.storeByte (Item.iv.base + k) v
  | .blk, k, v => s.storeByte (Item.blk.base + k) v
  | .sbox, k, v => s.storeByte (Item.sbox.base + k) v
  | .isbox, k, v => s.storeByte (Item.isbox.base + k) v
  | .din, k, v => s.storeByte (Item.din.base + k) v
  | .status, _, _ => s
  | .errcode, _, _ => s
  | .result, _, _ => s
  | .outlen, _, _ => s
  | .bufsz, _, _ => s
  | .expkey, _, _ => s
  | .gfinv, _, _ => s
  | .mul2, _, _ => s
  | .mul3, _, _ => s
  | .mul9, _, _ => s
  | .mul11, _, _ => s
  | .mul13, _, _ => s
  | .mul14, _, _ => s
  | .dout, _, _ => s

/-- `MemWrite(a, 1, v)`: dropped with BUSY = 1 (R69), ignored at a reserved address (R68). -/
def State.busWrite (s : State) (a : Nat) (v : Byte) : State :=
  if s.busy then s.dropWrite
  else
    match itemAt s.capacity a with
    | some it => s.setItemByte it (a - it.base) v
    | none => s

/-- The command in flight, decoded from LASTCMD (R25, R77, R100). -/
def State.fetch (s : State) : Except DecodeError Instr := decode s.lastCmd

/-- `Exec` of a byte that names no command: Fail(IllegalCommand) (R95, R100). -/
def execIllegal (s : State) : Host.Outcome State Fault Refusal :=
  .next (s.complete (.error .illegalCommand))

end Sys2Proof.Machine
end

