-- ==== Sys2Proof/Machine/KeySchedule.lean ====
section
/-! DEFINITION. The AES-128 key schedule (42_key_schedule.md R160 to R167) and KEY_EXPAND. -/

namespace Sys2Proof.Machine

/-- The round constants RCON[0]..RCON[9] (R160). -/
def rcon : List Byte := [0x01, 0x02, 0x04, 0x08, 0x10, 0x20, 0x40, 0x80, 0x1B, 0x36]

/-- Bytewise XOR of two byte sequences of one length: words (R160), blocks (R223). -/
def xorBytes (a b : List Byte) : List Byte := List.zipWith (· ^^^ ·) a b

/-- A cyclic rotation one byte toward index 0 (R162). -/
def rotWord : List Byte → List Byte
  | [] => []
  | a :: rest => rest ++ [a]

/-- Every byte of a word through the injected S-box (R163). -/
def subWord (w t : List Byte) : List Byte := w.map fun a => t.getD a.toNat 0

/-- The four words of a key, word `i` being bytes 4i..4i+3 (R161). -/
def keyWords (k : List Byte) : List (List Byte) :=
  (List.range 4).map fun i => (List.range 4).map fun j => k.getD (4 * i + j) 0

/-- The word after the words so far: `w[i]` for `i` their number (the loop body of R164). -/
def nextWord (t : List Byte) (ws : List (List Byte)) : List Byte :=
  let i := ws.length
  let prior := ws.getD (i - 1) []
  let temp := if i % 4 = 0 then xorBytes (subWord (rotWord prior) t) [rcon.getD (i / 4 - 1) 0, 0x00, 0x00, 0x00] else prior
  xorBytes (ws.getD (i - 4) []) temp

/-- `n` more words (R164). -/
def expandWords (t : List Byte) : Nat → List (List Byte) → List (List Byte)
  | 0, ws => ws
  | n + 1, ws => expandWords t n (ws ++ [nextWord t ws])

/-- The 176-byte expanded key, words w[0]..w[43] (R164). -/
def keyExpansion (k t : List Byte) : List Byte := (expandWords t 40 (keyWords k)).flatten

/-- KEY_EXPAND's outcome (R167). -/
def keyExpand (s : State) : CmdResult :=
  if bijective s.sbox then .ok (s.setExpkey (keyExpansion s.key s.sbox)) else .error .nonBijectiveSbox

/-- KEY_EXPAND, opcode 0x20 (R167). -/
def execKeyExpand (s : State) : Host.Outcome State Fault Refusal := .next (s.complete (keyExpand s))

end Sys2Proof.Machine
end

