-- ==== Sys2Proof/Machine/Round.lean ====
section
/-! DEFINITION. The AES-128 round function and the block cipher (43_round_function.md R180 to R211): the pure
functions on 16-byte blocks, the block commands of family 0x2 and the round primitives of family 0x4. -/

namespace Sys2Proof.Machine

/-- Every byte through a substitution table: SubBytes with the S-box (R181), InvSubBytes with the inverse S-box
(R187). -/
def substitute (b t : List Byte) : List Byte := b.map fun x => t.getD x.toNat 0

/-- Row `r` moves `r` columns toward column 0: output byte r + 4c is input byte r + 4((c + r) mod 4) (R182). -/
def shiftRows (b : List Byte) : List Byte :=
  (List.range 16).map fun k => b.getD (k % 4 + 4 * ((k / 4 + k % 4) % 4)) 0

/-- Row `r` moves `r` columns the other way: output byte r + 4c is input byte r + 4((c - r) mod 4) (R183). -/
def invShiftRows (b : List Byte) : List Byte :=
  (List.range 16).map fun k => b.getD (k % 4 + 4 * ((k / 4 + 4 - k % 4) % 4)) 0

/-- One column of MixColumns (R184). -/
def mixColumn (a0 a1 a2 a3 : Byte) : List Byte :=
  [mulTable 2 a0 ^^^ mulTable 3 a1 ^^^ a2 ^^^ a3,
   a0 ^^^ mulTable 2 a1 ^^^ mulTable 3 a2 ^^^ a3,
   a0 ^^^ a1 ^^^ mulTable 2 a2 ^^^ mulTable 3 a3,
   mulTable 3 a0 ^^^ a1 ^^^ a2 ^^^ mulTable 2 a3]

/-- One column of InvMixColumns (R188). -/
def invMixColumn (a0 a1 a2 a3 : Byte) : List Byte :=
  [mulTable 14 a0 ^^^ mulTable 11 a1 ^^^ mulTable 13 a2 ^^^ mulTable 9 a3,
   mulTable 9 a0 ^^^ mulTable 14 a1 ^^^ mulTable 11 a2 ^^^ mulTable 13 a3,
   mulTable 13 a0 ^^^ mulTable 9 a1 ^^^ mulTable 14 a2 ^^^ mulTable 11 a3,
   mulTable 11 a0 ^^^ mulTable 13 a1 ^^^ mulTable 9 a2 ^^^ mulTable 14 a3]

/-- A function of a column applied to the four columns of a block, column c being bytes 4c..4c+3 (R180). -/
def onColumns (f : Byte → Byte → Byte → Byte → List Byte) (b : List Byte) : List Byte :=
  (List.range 4).flatMap fun c =>
    f (b.getD (4 * c) 0) (b.getD (4 * c + 1) 0) (b.getD (4 * c + 2) 0) (b.getD (4 * c + 3) 0)

/-- MixColumns (R184). -/
def mixColumns (b : List Byte) : List Byte := onColumns mixColumn b

/-- InvMixColumns (R188). -/
def invMixColumns (b : List Byte) : List Byte := onColumns invMixColumn b

/-- Byte `k` is XORed with byte 16r + k of the expanded key (R186). -/
def addRoundKey (b ek : List Byte) (r : Nat) : List Byte :=
  (List.range 16).map fun k => b.getD k 0 ^^^ ek.getD (16 * r + k) 0

/-- One full round of encryption (R190). -/
def encRound (ek t st : List Byte) (r : Nat) : List Byte :=
  addRoundKey (mixColumns (shiftRows (substitute st t))) ek r

/-- One full round of decryption (R191). -/
def decRound (ek it st : List Byte) (r : Nat) : List Byte :=
  invMixColumns (addRoundKey (substitute (invShiftRows st) it) ek r)

/-- Encrypt one block: round key 0, rounds 1 to 9, and round 10 without MixColumns (R190). -/
def cipher (b ek t : List Byte) : List Byte :=
  addRoundKey (shiftRows (substitute ([1, 2, 3, 4, 5, 6, 7, 8, 9].foldl (encRound ek t) (addRoundKey b ek 0)) t)) ek 10

/-- Decrypt one block: round key 10, rounds 9 down to 1, and round 0 without InvMixColumns (R191). -/
def invCipher (b ek it : List Byte) : List Byte :=
  addRoundKey (substitute (invShiftRows ([9, 8, 7, 6, 5, 4, 3, 2, 1].foldl (decRound ek it) (addRoundKey b ek 10))) it) ek 0

/-- A command that writes BLK after checking the table it substitutes through (R256). -/
def blkThrough (s : State) (table out : List Byte) : CmdResult :=
  if bijective table then .ok (s.setBlk out) else .error .nonBijectiveSbox

/-- ENC_BLOCK, opcode 0x21 (R200). -/
def execEncBlock (s : State) : Host.Outcome State Fault Refusal :=
  .next (s.complete (blkThrough s s.sbox (cipher s.blk s.expkey s.sbox)))

/-- DEC_BLOCK, opcode 0x22 (R201). -/
def execDecBlock (s : State) : Host.Outcome State Fault Refusal :=
  .next (s.complete (blkThrough s s.isbox (invCipher s.blk s.expkey s.isbox)))

/-- SUB_BYTES, opcode 0x40 (R205). -/
def execSubBytes (s : State) : Host.Outcome State Fault Refusal :=
  .next (s.complete (blkThrough s s.sbox (substitute s.blk s.sbox)))

/-- SHIFT_ROWS, opcode 0x41 (R206). -/
def execShiftRows (s : State) : Host.Outcome State Fault Refusal :=
  .next (s.complete (.ok (s.setBlk (shiftRows s.blk))))

/-- MIX_COLUMNS, opcode 0x42 (R207). -/
def execMixColumns (s : State) : Host.Outcome State Fault Refusal :=
  .next (s.complete (.ok (s.setBlk (mixColumns s.blk))))

/-- ADD_ROUND_KEY's outcome: the round index is OPA, and only 0..10 is legal (R208). -/
def addRoundKeyByOpa (s : State) : CmdResult :=
  if 10 < s.opa.toNat then .error .invalidOperand else .ok (s.setBlk (addRoundKey s.blk s.expkey s.opa.toNat))

/-- ADD_ROUND_KEY, opcode 0x43 (R208). -/
def execAddRoundKey (s : State) : Host.Outcome State Fault Refusal := .next (s.complete (addRoundKeyByOpa s))

/-- INV_SUB_BYTES, opcode 0x44 (R209). -/
def execInvSubBytes (s : State) : Host.Outcome State Fault Refusal :=
  .next (s.complete (blkThrough s s.isbox (substitute s.blk s.isbox)))

/-- INV_SHIFT_ROWS, opcode 0x45 (R210). -/
def execInvShiftRows (s : State) : Host.Outcome State Fault Refusal :=
  .next (s.complete (.ok (s.setBlk (invShiftRows s.blk))))

/-- INV_MIX_COLUMNS, opcode 0x46 (R211). -/
def execInvMixColumns (s : State) : Host.Outcome State Fault Refusal :=
  .next (s.complete (.ok (s.setBlk (invMixColumns s.blk))))

end Sys2Proof.Machine
end

