-- ==== Sys2Proof/Machine/SboxGen.lean ====
section
/-! DEFINITION. S-box generation, family 0x1 (41_sbox.md R140 to R153): the affine map, the generated table, the
index/value swap, and the three commands, which never check bijectivity and never fail. -/

namespace Sys2Proof.Machine

/-- Output bit `i` is the parity of the input bits that row `m[i]` selects, XOR bit `i` of the constant; bits are
assembled LSB-first (R140). -/
def affine (m : List Byte) (c v : Byte) : Byte :=
  byteOfBits ((List.range 8).map fun i => parity (v &&& m.getD i 0) ^^ c.getLsbD i)

/-- The 256-byte table of a matrix and a constant (R141). -/
def genTable (m : List Byte) (c : Byte) : List Byte :=
  (List.range 256).map fun x => affine m c (gfinvTable (BitVec.ofNat 8 x))

/-- The index/value swap: one ascending pass over the indices, a later index overwriting an earlier one, from a table
of 0x00 (R144; assumption 8). -/
def swap (t : List Byte) : List Byte :=
  (List.range 256).foldl (fun r x => r.set (t.getD x 0).toNat (BitVec.ofNat 8 x)) (List.replicate 256 0x00)

/-- GEN_SBOX, opcode 0x10: SBOX <- GenSbox(MATRIX, CONST) (R150). -/
def execGenSbox (s : State) : Host.Outcome State Fault Refusal :=
  .next (s.complete (.ok (s.setSbox (genTable s.matrix s.const))))

/-- GEN_INV_SBOX, opcode 0x11: ISBOX <- Swap(SBOX) (R151). -/
def execGenInvSbox (s : State) : Host.Outcome State Fault Refusal :=
  .next (s.complete (.ok (s.setIsbox (swap s.sbox))))

/-- GEN_FWD_FROM_INV, opcode 0x12: SBOX <- Swap(ISBOX) (R152). -/
def execGenFwdFromInv (s : State) : Host.Outcome State Fault Refusal :=
  .next (s.complete (.ok (s.setSbox (swap s.isbox))))

end Sys2Proof.Machine
end

