-- ==== Sys2Proof/Machine/Cbc.lean ====
section
/-! DEFINITION. The CBC driver with PKCS#7 padding, family 0x3 (44_cbc.md R220 to R234). -/

namespace Sys2Proof.Machine

/-- PKCS#7 padding: 1 to 16 bytes, each the pad length (R220). -/
def pad (p : List Byte) : List Byte :=
  p ++ List.replicate (16 - p.length % 16) (BitVec.ofNat 8 (16 - p.length % 16))

/-- The length after lenient unpadding: a malformed padding strips nothing and is no error (R221). -/
def unpadLen (d : List Byte) : Nat :=
  let n := d.length
  let p := (d.getD (n - 1) 0).toNat
  if n = 0 then 0
  else if 1 ≤ p ∧ p ≤ 16 ∧ p ≤ n ∧ (List.range p).all (fun j => (d.getD (n - (j + 1)) 0).toNat == p) then n - p
  else n

/-- The data after lenient unpadding (R221). -/
def unpad (d : List Byte) : List Byte := d.take (unpadLen d)

/-- The 16-byte blocks of a sequence, block j being bytes 16j..16j+15 (R223). -/
def blocksOf (m : List Byte) : List (List Byte) :=
  (List.range (m.length / 16)).map fun j => (List.range 16).map fun k => m.getD (16 * j + k) 0

/-- Encrypt blocks, chaining from the previous ciphertext block (R224). -/
def cbcEncryptChain (ek t : List Byte) : List Byte → List (List Byte) → List (List Byte)
  | _, [] => []
  | prev, p :: ps =>
    let c := cipher (xorBytes p prev) ek t
    c :: cbcEncryptChain ek t c ps

/-- Decrypt blocks, chaining from the previous ciphertext block (R225). -/
def cbcDecryptChain (ek it : List Byte) : List Byte → List (List Byte) → List (List Byte)
  | _, [] => []
  | prev, c :: cs => xorBytes (invCipher c ek it) prev :: cbcDecryptChain ek it c cs

/-- CbcEncryptBlocks(P, EK, S, IV) (R224). -/
def cbcEncryptBlocks (p ek t iv : List Byte) : List Byte := (cbcEncryptChain ek t iv (blocksOf p)).flatten

/-- CbcDecryptBlocks(C, EK, IS, IV) (R225). -/
def cbcDecryptBlocks (c ek it iv : List Byte) : List Byte := (cbcDecryptChain ek it iv (blocksOf c)).flatten

/-- CBC_ENC's writes on success: EXPKEY, DOUT and OUTLEN (R230). -/
def cbcEncWrites (s : State) : State :=
  let p := pad (s.din s.len.toNat)
  let ek := keyExpansion s.key s.sbox
  ((s.setExpkey ek).setDout (cbcEncryptBlocks p ek s.sbox s.iv)).setOutLen p.length

/-- CBC_ENC's outcome, its checks in the order of R230 and R258. -/
def cbcEnc (s : State) : CmdResult :=
  if s.capacity ≤ s.len.toNat then .error .capacityExceeded
  else if bijective s.sbox then .ok (cbcEncWrites s)
  else .error .nonBijectiveSbox

/-- CBC_DEC's writes on success: EXPKEY, the whole decrypted sequence to DOUT, and the unpadded length to OUTLEN; the
key is expanded with Swap(ISBOX), which is not stored (R227, R231, R232). -/
def cbcDecWrites (s : State) : State :=
  let ek := keyExpansion s.key (swap s.isbox)
  let d := cbcDecryptBlocks (s.din s.len.toNat) ek s.isbox s.iv
  ((s.setExpkey ek).setDout d).setOutLen (unpadLen d)

/-- CBC_DEC's outcome, its checks in the order of R231 and R258. -/
def cbcDec (s : State) : CmdResult :=
  if s.len.toNat % 16 ≠ 0 then .error .invalidLength
  else if s.capacity < s.len.toNat then .error .capacityExceeded
  else if bijective s.isbox then .ok (cbcDecWrites s)
  else .error .nonBijectiveSbox

/-- CBC_ENC, opcode 0x30 (R230). -/
def execCbcEnc (s : State) : Host.Outcome State Fault Refusal := .next (s.complete (cbcEnc s))

/-- CBC_DEC, opcode 0x31 (R231). -/
def execCbcDec (s : State) : Host.Outcome State Fault Refusal := .next (s.complete (cbcDec s))

end Sys2Proof.Machine
end

