-- ==== Sys2Proof/Machine/GfArith.lean ====
section
/-! DEFINITION. The commands of family 0x0 (40_gf_arithmetic.md R120 to R129). Each succeeds on all operands and, NOP
apart, writes RESULT and nothing else. -/

namespace Sys2Proof.Machine

/-- NOP, opcode 0x00: no writes (R120). -/
def execNop (s : State) : Host.Outcome State Fault Refusal := .next (s.complete (.ok s))

/-- GF_MUL, opcode 0x01: RESULT <- gmul(OPA, OPB) (R121). -/
def execGfMul (s : State) : Host.Outcome State Fault Refusal :=
  .next (s.complete (.ok (s.setResult (gmul s.opa s.opb))))

/-- GF_INV, opcode 0x02: RESULT <- GFINV[OPA] (R122). -/
def execGfInv (s : State) : Host.Outcome State Fault Refusal :=
  .next (s.complete (.ok (s.setResult (gfinvTable s.opa))))

/-- GF_MUL2, opcode 0x03: RESULT <- MUL2[OPA] (R123). -/
def execGfMul2 (s : State) : Host.Outcome State Fault Refusal :=
  .next (s.complete (.ok (s.setResult (mulTable 0x02 s.opa))))

/-- GF_MUL3, opcode 0x04: RESULT <- MUL3[OPA] (R124). -/
def execGfMul3 (s : State) : Host.Outcome State Fault Refusal :=
  .next (s.complete (.ok (s.setResult (mulTable 0x03 s.opa))))

/-- GF_MUL9, opcode 0x05: RESULT <- MUL9[OPA] (R125). -/
def execGfMul9 (s : State) : Host.Outcome State Fault Refusal :=
  .next (s.complete (.ok (s.setResult (mulTable 0x09 s.opa))))

/-- GF_MUL11, opcode 0x06: RESULT <- MUL11[OPA] (R126). -/
def execGfMul11 (s : State) : Host.Outcome State Fault Refusal :=
  .next (s.complete (.ok (s.setResult (mulTable 0x0B s.opa))))

/-- GF_MUL13, opcode 0x07: RESULT <- MUL13[OPA] (R127). -/
def execGfMul13 (s : State) : Host.Outcome State Fault Refusal :=
  .next (s.complete (.ok (s.setResult (mulTable 0x0D s.opa))))

/-- GF_MUL14, opcode 0x08: RESULT <- MUL14[OPA] (R128). -/
def execGfMul14 (s : State) : Host.Outcome State Fault Refusal :=
  .next (s.complete (.ok (s.setResult (mulTable 0x0E s.opa))))

end Sys2Proof.Machine
end

