-- ==== Sys2Proof/Machine/Dispatch.lean ====
section
/-! DEFINITION. Dispatch: each command's meaning (30_encoding.md R100), one arm per constructor. A meaning is the
command's whole effect at its completion (R43, R93). -/

namespace Sys2Proof.Machine

def exec (i : Instr) (s : State) : Host.Outcome State Fault Refusal :=
  match i with
  | .nop => Sys2Proof.Machine.execNop s
  | .gfMul => Sys2Proof.Machine.execGfMul s
  | .gfInv => Sys2Proof.Machine.execGfInv s
  | .gfMul2 => Sys2Proof.Machine.execGfMul2 s
  | .gfMul3 => Sys2Proof.Machine.execGfMul3 s
  | .gfMul9 => Sys2Proof.Machine.execGfMul9 s
  | .gfMul11 => Sys2Proof.Machine.execGfMul11 s
  | .gfMul13 => Sys2Proof.Machine.execGfMul13 s
  | .gfMul14 => Sys2Proof.Machine.execGfMul14 s
  | .genSbox => Sys2Proof.Machine.execGenSbox s
  | .genInvSbox => Sys2Proof.Machine.execGenInvSbox s
  | .genFwdFromInv => Sys2Proof.Machine.execGenFwdFromInv s
  | .keyExpand => Sys2Proof.Machine.execKeyExpand s
  | .encBlock => Sys2Proof.Machine.execEncBlock s
  | .decBlock => Sys2Proof.Machine.execDecBlock s
  | .cbcEnc => Sys2Proof.Machine.execCbcEnc s
  | .cbcDec => Sys2Proof.Machine.execCbcDec s
  | .subBytes => Sys2Proof.Machine.execSubBytes s
  | .shiftRows => Sys2Proof.Machine.execShiftRows s
  | .mixColumns => Sys2Proof.Machine.execMixColumns s
  | .addRoundKey => Sys2Proof.Machine.execAddRoundKey s
  | .invSubBytes => Sys2Proof.Machine.execInvSubBytes s
  | .invShiftRows => Sys2Proof.Machine.execInvShiftRows s
  | .invMixColumns => Sys2Proof.Machine.execInvMixColumns s

end Sys2Proof.Machine
end

