-- ==== Sys2Proof/Machine/Step.lean ====
section
/-! DEFINITION. The engine's step: the next event of the schedule happens. The engine fetches no instructions (R21); what
comes next is the host's transaction, the command unit's completion of the command in flight, or a reset (DESIGN CHOICE,
safe: assumption 2). A command's whole effect is one step, at its completion (R43, assumption 9). -/

namespace Sys2Proof.Machine

/-- Completion of the command in flight: its meaning, or IllegalCommand for a byte that names no command (R93, R95). -/
def runCommand (s : State) : Host.Outcome State Fault Refusal :=
  match s.fetch with
  | .ok i => exec i s
  | .error _ => execIllegal s

/-- The command unit's turn: nothing to do while idle (R25, R266). -/
def unitTurn (s : State) : Host.Outcome State Fault Refusal :=
  if s.busy then runCommand s else .next s

/-- One event. -/
def runEvent (e : Event) (s : State) : Host.Outcome State Fault Refusal :=
  match e with
  | .read a => .next (s.busRead a.toNat)
  | .write a v => .next (s.busWrite a.toNat v).nextDraw
  | .complete => unitTurn s
  | .reset => .next s.hardReset

/-- One step: the first event to come happens, and where none is to come the command unit has its turn, so that every
accepted command completes (R296). -/
def step (s : State) : Host.Outcome State Fault Refusal :=
  match s.schedule with
  | [] => unitTurn s
  | e :: rest => runEvent e (s.setSchedule rest)

/-- `s` with the command byte `w` accepted and in flight (R92) and the command unit's turn next, so that the very next
step runs it. With no event to come, the unit's turn is next already. -/
def State.withFetchWord (s : State) (nbits w : Nat) : State :=
  let t := s.accept (BitVec.ofNat 8 (w % 2 ^ nbits))
  match s.schedule with
  | [] => t
  | e :: rest => t.setSchedule (.complete :: e :: rest)

end Sys2Proof.Machine
end

