-- ==== Sys2Proof/Safety.lean ====
section
/-! DEFINITION. What counts as a safe run, in the terms claims use: the inputs a command must find defined (R285), the
data-store bytes a command may write (R44), what success and failure leave alone (R92, R93, R253), the address ranges of
R22 as numbers, and the invariants of the engine. -/

namespace Sys2Proof.Safety

open Sys2Proof.Machine

/-- The table of R285: what must be defined before a command gives a defined result. The spec's own model stops with a
fault where a command reads a byte that is not defined (R281, I6); this model goes on with a free value, and a claim
about runs free of that fault takes this as its premise (assumption 1). -/
def inputsDefined (i : Instr) (s : State) : Bool :=
  match i with
  | .nop => true
  | .gfMul => true
  | .gfInv => true
  | .gfMul2 => true
  | .gfMul3 => true
  | .gfMul9 => true
  | .gfMul11 => true
  | .gfMul13 => true
  | .gfMul14 => true
  | .genSbox => s.defined 0x0010 8 && s.defined 0x0018 1
  | .genInvSbox => s.defined 0x0100 256
  | .genFwdFromInv => s.defined 0x0200 256
  | .keyExpand => s.defined 0x0020 16 && s.defined 0x0100 256
  | .encBlock => s.defined 0x0040 16 && s.defined 0x0300 176 && s.defined 0x0100 256
  | .decBlock => s.defined 0x0040 16 && s.defined 0x0300 176 && s.defined 0x0200 256
  | .cbcEnc => s.defined 0x4000 s.len.toNat && s.defined 0x0020 16 && s.defined 0x0030 16 && s.defined 0x0100 256
  | .cbcDec => s.defined 0x4000 s.len.toNat && s.defined 0x0020 16 && s.defined 0x0030 16 && s.defined 0x0200 256
  | .subBytes => s.defined 0x0040 16 && s.defined 0x0100 256
  | .shiftRows => s.defined 0x0040 16
  | .mixColumns => s.defined 0x0040 16
  | .addRoundKey => s.defined 0x0040 16 && s.defined 0x0300 176
  | .invSubBytes => s.defined 0x0040 16 && s.defined 0x0200 256
  | .invShiftRows => s.defined 0x0040 16
  | .invMixColumns => s.defined 0x0040 16

/-- The data-store bytes a command may write, as base and length (the last column of R44). -/
def writtenBytes (i : Instr) (s : State) : List (Nat × Nat) :=
  match i with
  | .nop => []
  | .gfMul => []
  | .gfInv => []
  | .gfMul2 => []
  | .gfMul3 => []
  | .gfMul9 => []
  | .gfMul11 => []
  | .gfMul13 => []
  | .gfMul14 => []
  | .genSbox => [(0x0100, 256)]
  | .genInvSbox => [(0x0200, 256)]
  | .genFwdFromInv => [(0x0100, 256)]
  | .keyExpand => [(0x0300, 176)]
  | .encBlock => [(0x0040, 16)]
  | .decBlock => [(0x0040, 16)]
  | .cbcEnc => [(0x0300, 176), (0x8000, (s.len.toNat / 16 + 1) * 16)]
  | .cbcDec => [(0x0300, 176), (0x8000, s.len.toNat)]
  | .subBytes => [(0x0040, 16)]
  | .shiftRows => [(0x0040, 16)]
  | .mixColumns => [(0x0040, 16)]
  | .addRoundKey => [(0x0040, 16)]
  | .invSubBytes => [(0x0040, 16)]
  | .invShiftRows => [(0x0040, 16)]
  | .invMixColumns => [(0x0040, 16)]

/-- The commands that write RESULT (R32, R44). -/
def writesResult : Instr → Bool
  | .gfMul => true
  | .gfInv => true
  | .gfMul2 => true
  | .gfMul3 => true
  | .gfMul9 => true
  | .gfMul11 => true
  | .gfMul13 => true
  | .gfMul14 => true
  | .nop => false
  | .genSbox => false
  | .genInvSbox => false
  | .genFwdFromInv => false
  | .keyExpand => false
  | .encBlock => false
  | .decBlock => false
  | .cbcEnc => false
  | .cbcDec => false
  | .subBytes => false
  | .shiftRows => false
  | .mixColumns => false
  | .addRoundKey => false
  | .invSubBytes => false
  | .invShiftRows => false
  | .invMixColumns => false

/-- The items no command writes at all: LASTCMD and OVR keep their values through completion (R23, R28), OPA, OPB and
LEN are the host's (R32, R33), BUFSZ is constant (R31), and the model's own fields are no part of a command. -/
abbrev Kept (s t : State) : Prop :=
  t.lastCmd = s.lastCmd ∧ t.ovr = s.ovr ∧ t.opa = s.opa ∧ t.opb = s.opb ∧ t.len = s.len ∧
    t.bufBytes = s.bufBytes ∧ t.schedule = s.schedule ∧ t.busData = s.busData ∧ t.draws = s.draws ∧ t.epoch = s.epoch

/-- Completion with success (R93), and the items no command writes unchanged. -/
abbrev Succeeded (s t : State) : Prop :=
  t.busy = false ∧ t.doneFlag = true ∧ t.err = false ∧ t.errCode = 0x00 ∧ Kept s t

/-- Completion with an error: ERRCODE, ERR, BUSY and DONE, and nothing else at all (R93, R253). -/
abbrev FailedWith (s t : State) (code : Byte) : Prop :=
  t = { s with errCode := code, err := true, busy := false, doneFlag := true }

/-- After a success, RESULT and OUTLEN are unchanged and the bytes base + k for k below n hold `f k`; every other byte
of the data stores is unchanged, defined or not. -/
abbrev StoredOnly (s t : State) (base n : Nat) (f : Nat → Byte) : Prop :=
  t.result = s.result ∧ t.outLen = s.outLen ∧
    ∀ a, Memory.read t.mem a = if base ≤ a ∧ a < base + n then some (f (a - base)) else Memory.read s.mem a

/-- The 256 entries of the table at a base address are pairwise distinct (R146). -/
abbrev DistinctAt (s : State) (base : Nat) : Prop :=
  ∀ x < 256, ∀ y < 256, s.load (base + x) = s.load (base + y) → x = y

/-- The data stores the host may read and write: MATRIX, CONST, KEY, IV, BLK, SBOX, ISBOX and DIN (R22). -/
abbrev IsHostStore (s : State) (a : Nat) : Prop :=
  (0x0010 ≤ a ∧ a ≤ 0x0018) ∨ (0x0020 ≤ a ∧ a ≤ 0x004F) ∨ (0x0100 ≤ a ∧ a ≤ 0x02FF) ∨
    (0x4000 ≤ a ∧ a < 0x4000 + s.bufBytes.toNat)

/-- The data stores the host may only read: EXPKEY and DOUT (R22). -/
abbrev IsEngineStore (s : State) (a : Nat) : Prop :=
  (0x0300 ≤ a ∧ a ≤ 0x03AF) ∨ (0x8000 ≤ a ∧ a < 0x8000 + s.bufBytes.toNat)

/-- The constant tables GFINV and MULk (R22, R40). -/
abbrev IsConstTable (a : Nat) : Prop := 0x0400 ≤ a ∧ a ≤ 0x0AFF

/-- The reserved addresses: every address R22 does not list (R60). -/
abbrev IsReserved (s : State) (a : Nat) : Prop :=
  0x000C ≤ a ∧ ¬ IsHostStore s a ∧ ¬ IsEngineStore s a ∧ ¬ IsConstTable a

/-- The byte of a constant table, by address (R40, R62). -/
def constTableByte (a : Nat) : Byte :=
  if a < 0x0500 then ginv (BitVec.ofNat 8 (a - 0x0400))
  else if a < 0x0600 then gmul (BitVec.ofNat 8 (a - 0x0500)) 0x02
  else if a < 0x0700 then gmul (BitVec.ofNat 8 (a - 0x0600)) 0x03
  else if a < 0x0800 then gmul (BitVec.ofNat 8 (a - 0x0700)) 0x09
  else if a < 0x0900 then gmul (BitVec.ofNat 8 (a - 0x0800)) 0x0B
  else if a < 0x0A00 then gmul (BitVec.ofNat 8 (a - 0x0900)) 0x0D
  else gmul (BitVec.ofNat 8 (a - 0x0A00)) 0x0E

/-- The product of two polynomials over GF(2), before any reduction, for a second factor of degree at most 8 (R112). -/
def polyMul (a b : BitVec 16) : BitVec 16 :=
  (List.range 9).foldl (fun acc i => if b.getLsbD i then acc ^^^ (a <<< i) else acc) 0

/-- The command unit's turn is next: no event is to come, or the next one is that turn (assumption 2). -/
abbrev UnitsTurn (es : List Event) : Prop := es = [] ∨ es.head? = some .complete

/-- INVARIANT of the command lifecycle (R24 to R28, R30, R251, R257): a command in flight is not done; ERR and OVR stand
only where an acceptance has been; ERR is 1 exactly when ERRCODE is not 0x00; ERRCODE is a code a command can raise; and
BUSY = 0 with DONE = 0 is only the time before the first acceptance. -/
abbrev Lifecycle (s : State) : Prop :=
  (s.busy = true → s.doneFlag = false) ∧
  (s.err = true → s.doneFlag = true) ∧
  (s.ovr = true → s.busy = true ∨ s.doneFlag = true) ∧
  (s.err = true ↔ s.errCode ≠ 0x00) ∧
  s.errCode ∈ ([0x00, 0x01, 0x03, 0x04, 0x05, 0x06] : List Byte) ∧
  (s.busy = false → s.doneFlag = false → s.lastCmd = 0x00 ∧ s.result = 0x00 ∧ s.outLen = 0x0000)

/-- INVARIANT of the stores: BUF_BYTES is legal (R6), memory is in canonical form and lists only bytes of data stores
(R22), EXPKEY is defined as a whole or not at all (R281), and OUTLEN fits the buffer and counts defined bytes of DOUT
(R34, R232). -/
abbrev Storage (s : State) : Prop :=
  BufBytes.wf s.bufBytes.toNat = true ∧
  Memory.wf s.mem ∧
  (∀ c ∈ s.mem, IsHostStore s c.1 ∨ IsEngineStore s c.1) ∧
  (s.defined 0x0300 176 = true ∨ ∀ k < 176, Memory.read s.mem (0x0300 + k) = none) ∧
  s.outLen.toNat ≤ s.bufBytes.toNat ∧
  s.defined 0x8000 s.outLen.toNat = true

end Sys2Proof.Safety
end

