-- ==== Sys2Proof/Certificates/Slice0/Obligations.lean ====
section
/-! DEFINITION. The statements for the provers. Each names in its docstring the rule of spec/ it formalises, or says
what it is derived from; addresses, opcodes and codes are written as the numbers the spec gives.

MODEL'S CHOICES. The order of events is `schedule` (assumption 2), so a statement about a step names the event at its head.
A byte of a data store that is not defined reads as a free value (assumption 1): a statement that a command succeeds, or
what it writes, rests on that choice in the states where a byte it reads is not defined, and its docstring says so by the
words "undefined bytes: assumption 1". No statement rests on which value a free value is. -/

open Sys2Proof Sys2Proof.Machine Sys2Proof.Safety

/-! ## Encoding and issue -/

/-- Bytes of R94's table, written out from its FAM and FN columns, decode to the commands of their rows. -/
def Obligations.TableBytesDecode : Prop :=
  decode 0b00000001 = .ok .gfMul ∧ decode 0b00001000 = .ok .gfMul14 ∧ decode 0b00010010 = .ok .genFwdFromInv ∧
  decode 0b00100010 = .ok .decBlock ∧ decode 0b00110001 = .ok .cbcDec ∧ decode 0b01000110 = .ok .invMixColumns

/-- Decode and encode agree over the whole byte: a command's byte is well-formed and decodes to it; a byte is well-formed
exactly when it is the byte of the command it decodes to; every other byte is rejected by name (R90, R94 to R96). -/
def Obligations.DecodeEncodeAgree : Prop :=
  (∀ i : Instr, decode (encode i) = .ok i ∧ Opcode.wf (encode i) = true) ∧
  (∀ opc : Byte, Opcode.wf opc = true ↔ ∃ i : Instr, decode opc = .ok i ∧ encode i = opc) ∧
  (∀ opc : Byte, Opcode.wf opc = false ↔ decode opc = .error (.illegalCommand opc))

/-- R95: each of the 232 bytes of the six ranges is accepted and completes with IllegalCommand, writing nothing but
LASTCMD, STATUS and ERRCODE; here the completion follows the acceptance, by a turn of the command unit or because no event
is to come (LatencyDoesNotMatter has the events in between). -/
def Obligations.IllegalByteCompletesWithIllegalCommand : Prop :=
  let illegal (n : Nat) : Bool := (0x09 ≤ n && n ≤ 0x0F) || (0x13 ≤ n && n ≤ 0x1F) || (0x23 ≤ n && n ≤ 0x2F) ||
    (0x32 ≤ n && n ≤ 0x3F) || (0x47 ≤ n && n ≤ 0x4F) || (0x50 ≤ n && n ≤ 0xFF)
  ((List.range 256).filter illegal).length = 232 ∧
  (∀ opc : Byte, illegal opc.toNat = false → ∃ i, decode opc = .ok i) ∧
  ∀ (s : State) (v : Byte) (later : List Event), s.busy = false → illegal v.toNat = true → UnitsTurn later →
    s.schedule = .write 0x0000 v :: later →
    ∃ u n, step s = .next u ∧ step u = .next
      { s with lastCmd := v, busy := false, doneFlag := true, err := true, ovr := false, errCode := 0x04,
               schedule := later.tail, draws := n }

/-- R92: a write of any byte to CMD with BUSY = 0 accepts it, with the six writes the rule lists and no other; a byte
that names no command fails at completion; a write to CMD with BUSY = 1 is dropped. Which events are to come and the draw
counter are the model's own (assumptions 2 and 3). -/
def Obligations.AnyByteIsAccepted : Prop :=
  ∀ (s : State) (v : Byte) (later : List Event), s.schedule = .write 0x0000 v :: later →
    (s.busy = false → ∃ n t, step s = .next t ∧
      t = { s with lastCmd := v, doneFlag := false, err := false, ovr := false, errCode := 0x00, busy := true,
                   schedule := later, draws := n } ∧
      ((∀ i, decode v ≠ .ok i) → UnitsTurn later → ∃ u, step t = .next u ∧ u.err = true)) ∧
    (s.busy = true → ∃ n, step s = .next { s with ovr := true, schedule := later, draws := n })

/-- A step runs the decoded command: with a command in flight and the command unit's turn next, step is exec of the
command LASTCMD decodes to, on the state with that turn taken off the schedule (R25, R93, R100; assumption 2). -/
def Obligations.StepRunsDecodedCommand : Prop :=
  ∀ (s : State) (i : Instr), s.busy = true → decode s.lastCmd = .ok i →
    (s.schedule = [] → step s = exec i s) ∧
    ∀ rest, s.schedule = .complete :: rest → step s = exec i { s with schedule := rest }

/-- Writing a command's byte to CMD while idle and letting the command unit move runs that command, on the state as it
stood at acceptance (R91 to R93, R100, D41). -/
def Obligations.IssuedCommandRuns : Prop :=
  ∀ (s : State) (i : Instr) (later : List Event), s.busy = false → UnitsTurn later →
    s.schedule = .write 0x0000 (encode i) :: later →
    ∃ u n, step s = .next u ∧ step u = exec i
      { s with lastCmd := encode i, doneFlag := false, err := false, ovr := false, errCode := 0x00, busy := true,
               schedule := later.tail, draws := n }

/-- Every command completes on every state, and its completion clears BUSY, sets DONE, keeps LASTCMD and OVR, and
records either no error or the code of one (R27, R28, R93, R251). Undefined bytes: assumption 1. -/
def Obligations.EveryCommandCompletes : Prop :=
  ∀ (i : Instr) (s : State), ∃ t, exec i s = .next t ∧ t.busy = false ∧ t.doneFlag = true ∧
    t.lastCmd = s.lastCmd ∧ t.ovr = s.ovr ∧
    ((t.err = false ∧ t.errCode = 0x00) ∨ (t.err = true ∧ t.errCode ∈ ([0x01, 0x03, 0x05, 0x06] : List Byte)))

/-- R253: a command that fails, an illegal byte among them, writes LASTCMD (at acceptance, kept here), STATUS and
ERRCODE, and no other item: of every command, and of the completion of whatever byte is in flight, by a turn of the
command unit or because no event is to come (assumption 2). -/
def Obligations.FailureWritesNothingElse : Prop :=
  (∀ (i : Instr) (s t : State), exec i s = .next t → t.err = true → FailedWith s t t.errCode) ∧
  ∀ s t : State, s.busy = true → UnitsTurn s.schedule → step s = .next t → t.err = true →
    t.errCode ≠ 0x00 ∧ FailedWith { s with schedule := s.schedule.tail } t t.errCode

/-- A command writes nothing outside its row of R44: the frame of all 24 commands, for every byte of the data stores. -/
def Obligations.CommandsWriteOnlyTheirRow : Prop :=
  ∀ (i : Instr) (s t : State), exec i s = .next t →
    Kept s t ∧ (writesResult i = false → t.result = s.result) ∧
    (i ≠ .cbcEnc → i ≠ .cbcDec → t.outLen = s.outLen) ∧
    ∀ a, (∀ r ∈ writtenBytes i s, ¬ (r.1 ≤ a ∧ a < r.1 + r.2)) → Memory.read t.mem a = Memory.read s.mem a

/-- Only the host writes KEY and IV (R37): in one step such a byte changes only by a host write to it with BUSY = 0, or
by a reset. -/
def Obligations.KeyAndIvChangeOnlyByHostOrReset : Prop :=
  ∀ (s t : State) (a : Nat), 0x0020 ≤ a → a ≤ 0x003F → step s = .next t →
    Memory.read t.mem a ≠ Memory.read s.mem a →
    s.schedule.head? = some .reset ∨
    (s.busy = false ∧ ∃ addr v, s.schedule.head? = some (.write addr v) ∧ addr.toNat = a)

/-- EXPKEY changes only when a successful KEY_EXPAND, CBC_ENC or CBC_DEC writes it, or by a reset (R41, R291). -/
def Obligations.ExpandedKeyGoesStale : Prop :=
  ∀ (s t : State) (a : Nat), 0x0300 ≤ a → a ≤ 0x03AF → step s = .next t →
    Memory.read t.mem a ≠ Memory.read s.mem a →
    s.schedule.head? = some .reset ∨
    (s.busy = true ∧ t.err = false ∧ (s.schedule = [] ∨ s.schedule.head? = some .complete) ∧
      (decode s.lastCmd = .ok .keyExpand ∨ decode s.lastCmd = .ok .cbcEnc ∨ decode s.lastCmd = .ok .cbcDec))

/-! ## The bus -/

/-- R67: a read, with BUSY = 0 or 1, changes no item of R22, so it clears no STATUS bit; and with BUSY = 0, two reads of
one address with no write and no acceptance between them return the same byte. -/
def Obligations.ReadsHaveNoSideEffects : Prop :=
  (∀ (s : State) (a : Addr) (rest : List Event), s.schedule = .read a :: rest → ∃ b n,
    step s = .next { s with schedule := rest, busData := some b, draws := n }) ∧
  ∀ (s : State) (a : Addr) (es rest : List Event), s.busy = false →
    (∀ e ∈ es, e = .complete ∨ ∃ b, e = .read b) → s.schedule = .read a :: (es ++ .read a :: rest) →
    ∃ t u : State, step s = .next t ∧ core.run (es.length + 2) s = .next u ∧ u.busData = t.busData ∧
      u = { s with schedule := rest, busData := t.busData }

/-- What an idle read returns, item by item of R22, and 0x00 at a reserved address (R68).
Undefined bytes: assumption 1. -/
def Obligations.IdleReadReturnsTheItem : Prop :=
  ∀ (s : State) (a : Addr) (rest : List Event), s.busy = false → BufBytes.wf s.bufBytes.toNat = true →
    s.schedule = .read a :: rest →
    ∃ b : Byte, step s = .next { s with schedule := rest, busData := some b } ∧
      (a.toNat = 0x0000 → b = s.lastCmd) ∧ (a.toNat = 0x0001 → b = s.statusByte) ∧
      (a.toNat = 0x0002 → b = s.errCode) ∧ (a.toNat = 0x0003 → b = s.opa) ∧ (a.toNat = 0x0004 → b = s.opb) ∧
      (a.toNat = 0x0005 → b = s.result) ∧
      (a.toNat = 0x0006 → b.toNat = s.len.toNat % 256) ∧ (a.toNat = 0x0007 → b.toNat = s.len.toNat / 256) ∧
      (a.toNat = 0x0008 → b.toNat = s.outLen.toNat % 256) ∧ (a.toNat = 0x0009 → b.toNat = s.outLen.toNat / 256) ∧
      (a.toNat = 0x000A → b.toNat = s.bufBytes.toNat % 256) ∧ (a.toNat = 0x000B → b.toNat = s.bufBytes.toNat / 256) ∧
      (IsHostStore s a.toNat ∨ IsEngineStore s a.toNat → b = s.load a.toNat) ∧
      (IsConstTable a.toNat → b = constTableByte a.toNat) ∧ (IsReserved s a.toNat → b = 0x00)

/-- R68: with BUSY = 0, a read of a reserved address returns 0x00; a write to a reserved or read-only address is ignored;
a write to a read-write item stores the byte (LEN one byte at a time, R66); a write to CMD issues a command. The draw
counter is the model's own (assumption 4). -/
def Obligations.IdleAccessOutcomes : Prop :=
  ∀ (s : State) (a : Addr) (v : Byte) (rest : List Event), s.busy = false → BufBytes.wf s.bufBytes.toNat = true →
    (s.schedule = .read a :: rest → IsReserved s a.toNat →
      step s = .next { s with schedule := rest, busData := some 0x00 }) ∧
    (s.schedule = .write a v :: rest → ∃ n,
      ((IsReserved s a.toNat ∨ IsEngineStore s a.toNat ∨ IsConstTable a.toNat ∨
          a.toNat ∈ [0x0001, 0x0002, 0x0005, 0x0008, 0x0009, 0x000A, 0x000B]) →
        step s = .next { s with schedule := rest, draws := n }) ∧
      (IsHostStore s a.toNat → ∃ m,
        step s = .next { s with mem := m, schedule := rest, draws := n } ∧
        ∀ b, Memory.read m b = if b = a.toNat then some v else Memory.read s.mem b) ∧
      (a.toNat = 0x0003 → step s = .next { s with opa := v, schedule := rest, draws := n }) ∧
      (a.toNat = 0x0004 → step s = .next { s with opb := v, schedule := rest, draws := n }) ∧
      (a.toNat = 0x0006 → step s = .next
        { s with len := BitVec.ofNat 16 (s.len.toNat / 256 * 256 + v.toNat), schedule := rest, draws := n }) ∧
      (a.toNat = 0x0007 → step s = .next
        { s with len := BitVec.ofNat 16 (v.toNat * 256 + s.len.toNat % 256), schedule := rest, draws := n }) ∧
      (a.toNat = 0x0000 → step s = .next
        { s with lastCmd := v, doneFlag := false, err := false, ovr := false, errCode := 0x00, busy := true,
                 schedule := rest, draws := n }))

/-- R69: with BUSY = 1, a host write to any address changes no item and sets OVR. -/
def Obligations.BusyWriteIsDropped : Prop :=
  ∀ (s : State) (a : Addr) (v : Byte) (rest : List Event), s.busy = true → s.schedule = .write a v :: rest →
    ∃ n, step s = .next { s with ovr := true, schedule := rest, draws := n }

/-- R70: with BUSY = 1, the reads the rule lists return the values it gives, every other address some byte, and no read
changes an item. -/
def Obligations.BusyReadsReturnWhatIsDefined : Prop :=
  ∀ (s : State) (a : Addr) (rest : List Event), s.busy = true → BufBytes.wf s.bufBytes.toNat = true →
    s.schedule = .read a :: rest →
    ∃ (b : Byte) (n : Nat), step s = .next { s with schedule := rest, busData := some b, draws := n } ∧
      (a.toNat = 0x0000 → b = s.lastCmd) ∧
      (a.toNat = 0x0001 → b.getLsbD 0 = true ∧ b.getLsbD 1 = false ∧ b.getLsbD 2 = false ∧ b.getLsbD 3 = s.ovr ∧
        b.getLsbD 6 = false ∧ b.getLsbD 7 = false) ∧
      (a.toNat = 0x0002 → b = 0x00) ∧
      (a.toNat = 0x000A → b.toNat = s.bufBytes.toNat % 256) ∧ (a.toNat = 0x000B → b.toNat = s.bufBytes.toNat / 256) ∧
      (IsConstTable a.toNat → b = constTableByte a.toNat) ∧ (IsReserved s a.toNat → b = 0x00)

/-- R40: a read of a constant table returns the field function's value, in any state, busy or idle; no step can change
one. -/
def Obligations.ConstantTablesHoldTheFieldFunctions : Prop :=
  ∀ (s : State) (a : Addr) (rest : List Event), IsConstTable a.toNat → s.schedule = .read a :: rest →
    ∃ t, step s = .next t ∧ t.busData = some (constTableByte a.toNat)

/-- The bits of STATUS with BUSY = 0 (R24): the flags in bits 3:0, 0 in bits 7:6, and in bits 5:4 the bijectivity of
each table all of whose bytes are defined (R29). -/
def Obligations.StatusBits : Prop :=
  ∀ s : State,
    s.statusByte.getLsbD 0 = s.busy ∧ s.statusByte.getLsbD 1 = s.doneFlag ∧ s.statusByte.getLsbD 2 = s.err ∧
    s.statusByte.getLsbD 3 = s.ovr ∧ s.statusByte.getLsbD 6 = false ∧ s.statusByte.getLsbD 7 = false ∧
    (s.defined 0x0100 256 = true → (s.statusByte.getLsbD 4 = true ↔ DistinctAt s 0x0100)) ∧
    (s.defined 0x0200 256 = true → (s.statusByte.getLsbD 5 = true ↔ DistinctAt s 0x0200))

/-! ## Reset -/

/-- R280, R284: the control registers are zero, BUFSZ is BUF_BYTES, no byte of a data store is defined, and the engine
is idle. That State.reset takes the spec's default 4096 for the parameter is assumption 5. -/
def Obligations.ResetLeavesItsValues : Prop :=
  State.reset.lastCmd = 0x00 ∧ State.reset.errCode = 0x00 ∧ State.reset.opa = 0x00 ∧ State.reset.opb = 0x00 ∧
  State.reset.result = 0x00 ∧ State.reset.len = 0x0000 ∧ State.reset.outLen = 0x0000 ∧
  State.reset.busy = false ∧ State.reset.doneFlag = false ∧ State.reset.err = false ∧ State.reset.ovr = false ∧
  State.reset.bufBytes = 4096#16 ∧ (∀ a, Memory.read State.reset.mem a = none) ∧
  step State.reset = .next State.reset

/-- R282: a reset while a command is in flight abandons it: none of its writes is applied and the state afterwards is the
reset state; so it is at every other time too (R280), with BUFSZ the parameter. The model's own schedule and counters go
on (assumptions 1 to 3). -/
def Obligations.ResetEventAtAnyTime : Prop :=
  ∀ (s : State) (rest : List Event), s.schedule = .reset :: rest →
    ∃ n e, step s = .next { State.reset with bufBytes := s.bufBytes, schedule := rest, draws := n, epoch := e }

/-- The reset state meets both invariants. -/
def Obligations.ResetMeetsTheInvariants : Prop := Lifecycle State.reset ∧ Storage State.reset

/-- R285: where the items of a command's row are defined, its outcome is a function of them: no free value of an
undefined byte reaches it. The free values hang on the epoch, so the outcome is the same at every epoch.
Undefined bytes: assumption 1. -/
def Obligations.DefinedInputsFixTheOutcome : Prop :=
  ∀ (i : Instr) (s : State) (e : Nat), inputsDefined i s = true →
    ∃ t, exec i s = .next t ∧ exec i { s with epoch := e } = .next { t with epoch := e }

/-! ## GF(2^8) -/

/-- R129, with R120 to R128: NOP and the GF commands always succeed; a GF command writes RESULT, from OPA (GF_MUL: OPA and
OPB), and nothing else; NOP writes nothing. -/
def Obligations.GfCommandsWriteResult : Prop :=
  ∀ s : State,
    let wrote (t : State) (v : Byte) : Prop := Succeeded s t ∧ t.result = v ∧ t.outLen = s.outLen ∧ t.mem = s.mem
    (∃ t, exec .nop s = .next t ∧ wrote t s.result) ∧
    (∃ t, exec .gfMul s = .next t ∧ wrote t (gmul s.opa s.opb)) ∧
    (∃ t, exec .gfInv s = .next t ∧ wrote t (ginv s.opa)) ∧
    (∃ t, exec .gfMul2 s = .next t ∧ wrote t (gmul s.opa 0x02)) ∧
    (∃ t, exec .gfMul3 s = .next t ∧ wrote t (gmul s.opa 0x03)) ∧
    (∃ t, exec .gfMul9 s = .next t ∧ wrote t (gmul s.opa 0x09)) ∧
    (∃ t, exec .gfMul11 s = .next t ∧ wrote t (gmul s.opa 0x0B)) ∧
    (∃ t, exec .gfMul13 s = .next t ∧ wrote t (gmul s.opa 0x0D)) ∧
    (∃ t, exec .gfMul14 s = .next t ∧ wrote t (gmul s.opa 0x0E))

/-- GF_MUL's operands commute, and with XOR as addition gmul makes the bytes a commutative ring with one (R112, R121). -/
def Obligations.GmulMakesARing : Prop :=
  (∀ a b : Byte, gmul a b = gmul b a) ∧
  (∀ a b c : Byte, gmul (gmul a b) c = gmul a (gmul b c)) ∧
  (∀ a b c : Byte, gmul a (b ^^^ c) = gmul a b ^^^ gmul a c) ∧
  (∀ b : Byte, gmul 0x01 b = b) ∧ (∀ b : Byte, gmul 0x00 b = 0x00)

/-- GF(2^8) multiplication is polynomial multiplication modulo 0x11B (R110, R112): the unreduced product is a multiple of
0x11B plus gmul's byte. -/
def Obligations.GmulIsThePolynomialProduct : Prop :=
  ∀ a b : Byte, ∃ q : Byte,
    polyMul (a.setWidth 16) (b.setWidth 16) = polyMul (q.setWidth 16) 0x011B ^^^ (gmul a b).setWidth 16

/-- R111: ginv(0) = 0; for every other x, ginv(x) is the one y with gmul(x, y) = 1; and ginv is an involution. -/
def Obligations.GinvIsTheInverse : Prop :=
  ginv 0x00 = 0x00 ∧
  (∀ x : Byte, x ≠ 0x00 → gmul x (ginv x) = 0x01 ∧ ∀ y : Byte, gmul x y = 0x01 → y = ginv x) ∧
  ∀ x : Byte, ginv (ginv x) = x

/-! ## S-box generation -/

/-- R140: output bit i is the parity of the bits of v that row i selects, XOR bit i of the constant. -/
def Obligations.AffineOutputBits : Prop :=
  ∀ (m : List Byte) (c v : Byte) (i : Nat), i < 8 →
    (affine m c v).getLsbD i =
      (decide (((List.range 8).filter fun j => (m.getD i 0).getLsbD j && v.getLsbD j).length % 2 = 1) ^^ c.getLsbD i)

/-- R141: GEN_SBOX accepts every matrix and constant and writes Affine(MATRIX, CONST, GFINV[x]) to SBOX[x], and nothing
else. Undefined bytes: assumption 1. -/
def Obligations.GenSboxWritesTheAffineTable : Prop :=
  ∀ s : State, ∃ t, exec .genSbox s = .next t ∧ Succeeded s t ∧
    StoredOnly s t 0x0100 256 fun x =>
      affine ((List.range 8).map fun i => s.load (0x0010 + i)) (s.load 0x0018) (ginv (BitVec.ofNat 8 x))

/-- R142: the generated table is bijective exactly when the affine map is, and exactly when the 8×8 matrix over GF(2)
with entry (i, j) = m[i][j] is invertible; the constant plays no part. -/
def Obligations.GenTableBijectiveIffMatrixInvertible : Prop :=
  ∀ (m : List Byte) (c : Byte),
    (bijective (genTable m c) = true ↔ ∀ u v : Byte, affine m c u = affine m c v → u = v) ∧
    (bijective (genTable m c) = true ↔
      IsUnit (Matrix.of fun i j : Fin 8 => if (m.getD i.val 0).getLsbD j.val then (1 : ZMod 2) else 0))

/-- R144: Swap(T)[y] is the largest x with T[x] = y, and 0x00 where there is none. -/
def Obligations.SwapTakesTheLastIndex : Prop :=
  ∀ T : List Byte, T.length = 256 → (swap T).length = 256 ∧ ∀ y < 256,
    (∀ x < 256, (T.getD x 0).toNat = y → (∀ z < 256, x < z → (T.getD z 0).toNat ≠ y) →
      (swap T).getD y 0 = BitVec.ofNat 8 x) ∧
    ((∀ x < 256, (T.getD x 0).toNat ≠ y) → (swap T).getD y 0 = 0x00)

/-- R145: Swap of a bijective table is its inverse permutation, is bijective, and swaps back. -/
def Obligations.SwapInvertsABijectiveTable : Prop :=
  ∀ T : List Byte, T.length = 256 → bijective T = true →
    (∀ x < 256, (swap T).getD (T.getD x 0).toNat 0 = BitVec.ofNat 8 x) ∧
    (∀ y < 256, T.getD ((swap T).getD y 0).toNat 0 = BitVec.ofNat 8 y) ∧
    bijective (swap T) = true ∧ swap (swap T) = T

/-- The one case in which Swap of a non-bijective table is bijective (R147): exactly one pair of indices collides, so that
exactly one value is missing, and the smaller index of the pair is 0. -/
def Obligations.SwapBijectiveFromOneCollision : Prop :=
  ∀ T : List Byte, T.length = 256 → bijective T = false →
    (bijective (swap T) = true ↔
      ∃ j, 0 < j ∧ j < 256 ∧ T.getD j 0 = T.getD 0 0 ∧
        ∀ x y, x < y → y < 256 → T.getD x 0 = T.getD y 0 → x = 0 ∧ y = j)

/-- A clause of R147 as it stands: for a non-bijective T, Swap(Swap(T)) ≠ T. It is expected to FAIL of R144's Swap: the
table with T[0] = 0xFF, T[1] = T[0xFF] = 0x00 and T[x] = x elsewhere swaps back to itself (assumption 7). -/
def Obligations.NonBijectiveTableNeverSwapsBack : Prop :=
  ∀ T : List Byte, T.length = 256 → bijective T = false → swap (swap T) ≠ T

/-- R153, with R151 and R152: the two derivations never fail and never check; each writes the swap of one table to the
other, and nothing else. Undefined bytes: assumption 1. -/
def Obligations.DerivationsSwapTheTables : Prop :=
  ∀ s : State,
    (∃ t, exec .genInvSbox s = .next t ∧ Succeeded s t ∧
      StoredOnly s t 0x0200 256 fun y => (swap ((List.range 256).map fun x => s.load (0x0100 + x))).getD y 0) ∧
    (∃ t, exec .genFwdFromInv s = .next t ∧ Succeeded s t ∧
      StoredOnly s t 0x0100 256 fun y => (swap ((List.range 256).map fun x => s.load (0x0200 + x))).getD y 0)

/-- R146: the 256-distinct-values check holds exactly when the entries are pairwise distinct; STATUS reads it, of a table
all of whose bytes are defined (R29). -/
def Obligations.BijectiveMeansPairwiseDistinct : Prop :=
  (∀ T : List Byte, T.length = 256 →
    (bijective T = true ↔ ∀ x < 256, ∀ y < 256, T.getD x 0 = T.getD y 0 → x = y)) ∧
  ∀ s : State, (s.defined 0x0100 256 = true → s.statusByte.getLsbD 4 = bijective s.sbox) ∧
    (s.defined 0x0200 256 = true → s.statusByte.getLsbD 5 = bijective s.isbox)

/-! ## Key schedule -/

/-- R164: the words of the expanded key, byte by byte. -/
def Obligations.KeyExpansionWords : Prop :=
  ∀ K S : List Byte, K.length = 16 → S.length = 256 →
    let EK := keyExpansion K S
    EK.length = 176 ∧ (∀ k < 16, EK.getD k 0 = K.getD k 0) ∧
    ∀ i j, 4 ≤ i → i < 44 → j < 4 →
      EK.getD (4 * i + j) 0 = EK.getD (4 * (i - 4) + j) 0 ^^^
        (if i % 4 = 0 then
          S.getD (EK.getD (4 * (i - 1) + (j + 1) % 4) 0).toNat 0 ^^^
            (if j = 0 then ([0x01, 0x02, 0x04, 0x08, 0x10, 0x20, 0x40, 0x80, 0x1B, 0x36] : List Byte).getD (i / 4 - 1) 0
              else 0x00)
        else EK.getD (4 * (i - 1) + j) 0)

/-- Two S-boxes that agree on every byte the 40 SubWord lookups read give the same expanded key (R165). -/
def Obligations.KeyExpansionReadsOnlyItsLookups : Prop :=
  ∀ K S S' : List Byte, K.length = 16 → S.length = 256 → S'.length = 256 →
    (∀ n j, 1 ≤ n → n ≤ 10 → j < 4 →
      S.getD ((keyExpansion K S).getD (4 * (4 * n - 1) + j) 0).toNat 0 =
        S'.getD ((keyExpansion K S).getD (4 * (4 * n - 1) + j) 0).toNat 0) →
    keyExpansion K S = keyExpansion K S'

/-- KEY_EXPAND (R167): with a bijective SBOX it writes KeyExpansion(KEY, SBOX) to EXPKEY and nothing else; otherwise it
fails with NonBijectiveSbox and EXPKEY is unchanged. Undefined bytes: assumption 1. -/
def Obligations.KeyExpandOutcome : Prop :=
  ∀ s : State,
    (DistinctAt s 0x0100 → ∃ t, exec .keyExpand s = .next t ∧ Succeeded s t ∧
      StoredOnly s t 0x0300 176 fun k => (keyExpansion s.key s.sbox).getD k 0) ∧
    (¬ DistinctAt s 0x0100 → ∃ t, exec .keyExpand s = .next t ∧ FailedWith s t 0x03)

/-! ## Round function and block cipher -/

/-- SHIFT_ROWS and INV_SHIFT_ROWS (R206, R210): row r of BLK moves by r columns, left and right (R182, R183).
Undefined bytes: assumption 1. -/
def Obligations.ShiftCommandsRotateTheRows : Prop :=
  ∀ s : State,
    (∃ t, exec .shiftRows s = .next t ∧ Succeeded s t ∧
      (∃ f, StoredOnly s t 0x0040 16 f) ∧
      ∀ r < 4, ∀ c < 4, Memory.read t.mem (0x0040 + r + 4 * c) = some (s.load (0x0040 + r + 4 * ((c + r) % 4)))) ∧
    (∃ t, exec .invShiftRows s = .next t ∧ Succeeded s t ∧
      (∃ f, StoredOnly s t 0x0040 16 f) ∧
      ∀ r < 4, ∀ c < 4, Memory.read t.mem (0x0040 + r + 4 * c) = some (s.load (0x0040 + r + 4 * ((c + 4 - r) % 4))))

/-- MIX_COLUMNS and INV_MIX_COLUMNS (R207, R211): each column of BLK times the matrix of R184, or of R188.
Undefined bytes: assumption 1. -/
def Obligations.MixCommandsMultiplyTheColumns : Prop :=
  ∀ s : State,
    let a (c k : Nat) : Byte := s.load (0x0040 + 4 * c + k)
    (∃ t, exec .mixColumns s = .next t ∧ Succeeded s t ∧ (∃ f, StoredOnly s t 0x0040 16 f) ∧ ∀ c < 4,
      Memory.read t.mem (0x0040 + 4 * c + 0) = some (gmul (a c 0) 2 ^^^ gmul (a c 1) 3 ^^^ a c 2 ^^^ a c 3) ∧
      Memory.read t.mem (0x0040 + 4 * c + 1) = some (a c 0 ^^^ gmul (a c 1) 2 ^^^ gmul (a c 2) 3 ^^^ a c 3) ∧
      Memory.read t.mem (0x0040 + 4 * c + 2) = some (a c 0 ^^^ a c 1 ^^^ gmul (a c 2) 2 ^^^ gmul (a c 3) 3) ∧
      Memory.read t.mem (0x0040 + 4 * c + 3) = some (gmul (a c 0) 3 ^^^ a c 1 ^^^ a c 2 ^^^ gmul (a c 3) 2)) ∧
    (∃ t, exec .invMixColumns s = .next t ∧ Succeeded s t ∧ (∃ f, StoredOnly s t 0x0040 16 f) ∧ ∀ c < 4,
      Memory.read t.mem (0x0040 + 4 * c + 0) =
        some (gmul (a c 0) 0x0E ^^^ gmul (a c 1) 0x0B ^^^ gmul (a c 2) 0x0D ^^^ gmul (a c 3) 0x09) ∧
      Memory.read t.mem (0x0040 + 4 * c + 1) =
        some (gmul (a c 0) 0x09 ^^^ gmul (a c 1) 0x0E ^^^ gmul (a c 2) 0x0B ^^^ gmul (a c 3) 0x0D) ∧
      Memory.read t.mem (0x0040 + 4 * c + 2) =
        some (gmul (a c 0) 0x0D ^^^ gmul (a c 1) 0x09 ^^^ gmul (a c 2) 0x0E ^^^ gmul (a c 3) 0x0B) ∧
      Memory.read t.mem (0x0040 + 4 * c + 3) =
        some (gmul (a c 0) 0x0B ^^^ gmul (a c 1) 0x0D ^^^ gmul (a c 2) 0x09 ^^^ gmul (a c 3) 0x0E))

/-- ADD_ROUND_KEY (R208): for OPA in 0..10, byte k of BLK is XORed with EXPKEY[16·OPA + k]; otherwise it fails with
InvalidOperand. Undefined bytes: assumption 1. -/
def Obligations.AddRoundKeyOutcome : Prop :=
  ∀ s : State,
    (s.opa.toNat ≤ 10 → ∃ t, exec .addRoundKey s = .next t ∧ Succeeded s t ∧
      StoredOnly s t 0x0040 16 fun k => s.load (0x0040 + k) ^^^ s.load (0x0300 + 16 * s.opa.toNat + k)) ∧
    (10 < s.opa.toNat → ∃ t, exec .addRoundKey s = .next t ∧ FailedWith s t 0x06)

/-- SUB_BYTES and INV_SUB_BYTES (R205, R209): each byte of BLK through SBOX, or ISBOX; with a repeated value in the table
the command fails with NonBijectiveSbox. Undefined bytes: assumption 1. -/
def Obligations.SubstitutionCommandsOutcome : Prop :=
  ∀ s : State,
    (DistinctAt s 0x0100 → ∃ t, exec .subBytes s = .next t ∧ Succeeded s t ∧
      StoredOnly s t 0x0040 16 fun k => s.load (0x0100 + (s.load (0x0040 + k)).toNat)) ∧
    (¬ DistinctAt s 0x0100 → ∃ t, exec .subBytes s = .next t ∧ FailedWith s t 0x03) ∧
    (DistinctAt s 0x0200 → ∃ t, exec .invSubBytes s = .next t ∧ Succeeded s t ∧
      StoredOnly s t 0x0040 16 fun k => s.load (0x0200 + (s.load (0x0040 + k)).toNat)) ∧
    (¬ DistinctAt s 0x0200 → ∃ t, exec .invSubBytes s = .next t ∧ FailedWith s t 0x03)

/-- ENC_BLOCK and DEC_BLOCK (R200, R201): BLK becomes Cipher(BLK, EXPKEY, SBOX), or InvCipher(BLK, EXPKEY, ISBOX); with a
repeated value in the table the command fails with NonBijectiveSbox. Undefined bytes: assumption 1. -/
def Obligations.BlockCommandsOutcome : Prop :=
  ∀ s : State,
    (DistinctAt s 0x0100 → ∃ t, exec .encBlock s = .next t ∧ Succeeded s t ∧
      StoredOnly s t 0x0040 16 fun k => (cipher s.blk s.expkey s.sbox).getD k 0) ∧
    (¬ DistinctAt s 0x0100 → ∃ t, exec .encBlock s = .next t ∧ FailedWith s t 0x03) ∧
    (DistinctAt s 0x0200 → ∃ t, exec .decBlock s = .next t ∧ Succeeded s t ∧
      StoredOnly s t 0x0040 16 fun k => (invCipher s.blk s.expkey s.isbox).getD k 0) ∧
    (¬ DistinctAt s 0x0200 → ∃ t, exec .decBlock s = .next t ∧ FailedWith s t 0x03)

/-- R190 and R191: the rounds of the cipher and of its inverse, and that InvShiftRows and InvSubBytes commute. -/
def Obligations.CipherRounds : Prop :=
  ∀ B EK S : List Byte, B.length = 16 →
    (∃ st : Nat → List Byte, st 0 = addRoundKey B EK 0 ∧
      (∀ r, 1 ≤ r → r ≤ 9 → st r = addRoundKey (mixColumns (shiftRows (substitute (st (r - 1)) S))) EK r) ∧
      cipher B EK S = addRoundKey (shiftRows (substitute (st 9) S)) EK 10) ∧
    (∃ st : Nat → List Byte, st 10 = addRoundKey B EK 10 ∧
      (∀ r, 1 ≤ r → r ≤ 9 → st r = invMixColumns (addRoundKey (substitute (invShiftRows (st (r + 1))) S) EK r)) ∧
      invCipher B EK S = addRoundKey (substitute (invShiftRows (st 1)) S) EK 0) ∧
    substitute (invShiftRows B) S = invShiftRows (substitute B S)

/-- The inverse layers undo the layers (R183, R186, R187, R188). -/
def Obligations.InverseLayersUndoTheLayers : Prop :=
  ∀ B EK S : List Byte, B.length = 16 → EK.length = 176 → S.length = 256 → bijective S = true →
    invShiftRows (shiftRows B) = B ∧ shiftRows (invShiftRows B) = B ∧
    invMixColumns (mixColumns B) = B ∧ mixColumns (invMixColumns B) = B ∧
    substitute (substitute B S) (swap S) = B ∧
    ∀ r ≤ 10, addRoundKey (addRoundKey B EK r) EK r = B

/-- R192: decryption inverts encryption, for every block, key and bijective S-box. -/
def Obligations.BlockRoundTrip : Prop :=
  ∀ B K S : List Byte, B.length = 16 → K.length = 16 → S.length = 256 → bijective S = true →
    invCipher (cipher B (keyExpansion K S) S) (keyExpansion K S) (swap S) = B

/-- ENC_BLOCK and then DEC_BLOCK restore BLK, on the engine, whenever SBOX is bijective and ISBOX is its swap, whatever
EXPKEY holds: of R201's three conditions, that EXPKEY was expanded with a bijective SBOX is not needed, and that it has
not changed in between follows, as ENC_BLOCK does not write it. Undefined bytes: assumption 1. -/
def Obligations.EncryptThenDecryptRestoresBlk : Prop :=
  ∀ s t : State, DistinctAt s 0x0100 → s.isbox = swap s.sbox → exec .encBlock s = .next t →
    ∃ u, exec .decBlock t = .next u ∧ Succeeded t u ∧ ∀ k < 16, u.load (0x0040 + k) = s.load (0x0040 + k)

/-- R256, where both tables are defined: the seven commands that substitute for cipher use fail with NonBijectiveSbox where
their table has a repeated value (the CBC commands where no earlier check fails), and no other command ever records that
error. -/
def Obligations.BijectivityIsCheckedBeforeCipherUse : Prop :=
  ∀ s : State, s.defined 0x0100 256 = true → s.defined 0x0200 256 = true →
    (¬ DistinctAt s 0x0100 → ∀ i ∈ ([.keyExpand, .encBlock, .subBytes] : List Instr),
      ∃ t, exec i s = .next t ∧ FailedWith s t 0x03) ∧
    (¬ DistinctAt s 0x0100 → s.len.toNat < s.bufBytes.toNat → ∃ t, exec .cbcEnc s = .next t ∧ FailedWith s t 0x03) ∧
    (¬ DistinctAt s 0x0200 → ∀ i ∈ ([.decBlock, .invSubBytes] : List Instr),
      ∃ t, exec i s = .next t ∧ FailedWith s t 0x03) ∧
    (¬ DistinctAt s 0x0200 → s.len.toNat % 16 = 0 → s.len.toNat ≤ s.bufBytes.toNat →
      ∃ t, exec .cbcDec s = .next t ∧ FailedWith s t 0x03) ∧
    (∀ i t, exec i s = .next t → t.errCode = 0x03 →
      (i ∈ ([.keyExpand, .encBlock, .subBytes, .cbcEnc] : List Instr) ∧ ¬ DistinctAt s 0x0100) ∨
      (i ∈ ([.decBlock, .invSubBytes, .cbcDec] : List Instr) ∧ ¬ DistinctAt s 0x0200))

/-! ## CBC -/

/-- R220: Pad appends n = 16 - (len mod 16) bytes, each equal to n; the length becomes (len div 16 + 1)·16; an empty input
gives 16 bytes of 0x10. -/
def Obligations.PadAppendsItsLength : Prop :=
  (∀ P : List Byte, pad P = P ++ List.replicate (16 - P.length % 16) (BitVec.ofNat 8 (16 - P.length % 16)) ∧
    1 ≤ 16 - P.length % 16 ∧ 16 - P.length % 16 ≤ 16 ∧ (pad P).length = (P.length / 16 + 1) * 16) ∧
  pad [] = List.replicate 16 0x10

/-- R221: when lenient unpadding strips, that it otherwise leaves the length, and that Unpad cuts to that length. -/
def Obligations.UnpadStripsOnlyAConsistentRun : Prop :=
  ∀ D : List Byte,
    let n := D.length
    let p := (D.getD (n - 1) 0).toNat
    let consistent := 1 ≤ p ∧ p ≤ 16 ∧ p ≤ n ∧ ∀ k, 1 ≤ k → k ≤ p → (D.getD (n - k) 0).toNat = p
    (n = 0 → unpadLen D = 0) ∧ (n ≠ 0 → consistent → unpadLen D = n - p) ∧ (n ≠ 0 → ¬ consistent → unpadLen D = n) ∧
    unpad D = D.take (unpadLen D)

/-- R222: Unpad(Pad(P)) = P; and unpadding can strip data: a sequence ending in 0x41 0x01 loses its final byte. -/
def Obligations.UnpadUndoesPad : Prop :=
  (∀ P : List Byte, unpad (pad P) = P) ∧ ∀ P : List Byte, unpad (P ++ [0x41, 0x01]) = P ++ [0x41]

/-- R224: block j of the ciphertext is the cipher of plaintext block j XOR the ciphertext block before it, or IV. -/
def Obligations.CbcEncryptionChains : Prop :=
  ∀ (P EK S IV : List Byte) (n : Nat), P.length = 16 * n → IV.length = 16 →
    let C := cbcEncryptBlocks P EK S IV
    let block (m : List Byte) (j : Nat) : List Byte := (m.drop (16 * j)).take 16
    C.length = 16 * n ∧
    ∀ j < n, block C j =
      cipher (List.zipWith (· ^^^ ·) (block P j) (if j = 0 then IV else block C (j - 1))) EK S

/-- R225: block j of the plaintext is the decryption of ciphertext block j XOR the ciphertext block before it, or IV. -/
def Obligations.CbcDecryptionChains : Prop :=
  ∀ (C EK IS IV : List Byte) (n : Nat), C.length = 16 * n → IV.length = 16 →
    let D := cbcDecryptBlocks C EK IS IV
    let block (m : List Byte) (j : Nat) : List Byte := (m.drop (16 * j)).take 16
    D.length = 16 * n ∧
    ∀ j < n, block D j =
      List.zipWith (· ^^^ ·) (invCipher (block C j) EK IS) (if j = 0 then IV else block C (j - 1))

/-- CBC_ENC (R230, R232, R233, and R258's order): its two errors, and on success EXPKEY, DOUT[0..OUTLEN) and OUTLEN, and
nothing else. Undefined bytes: assumption 1. -/
def Obligations.CbcEncOutcome : Prop :=
  ∀ s : State, BufBytes.wf s.bufBytes.toNat = true →
    let L := s.len.toNat
    let N := (L / 16 + 1) * 16
    (s.bufBytes.toNat ≤ L → ∃ t, exec .cbcEnc s = .next t ∧ FailedWith s t 0x05) ∧
    (L < s.bufBytes.toNat → ¬ DistinctAt s 0x0100 → ∃ t, exec .cbcEnc s = .next t ∧ FailedWith s t 0x03) ∧
    (L < s.bufBytes.toNat → DistinctAt s 0x0100 → ∃ t, exec .cbcEnc s = .next t ∧ Succeeded s t ∧
      t.result = s.result ∧ t.outLen.toNat = N ∧
      ∀ a, Memory.read t.mem a =
        if 0x0300 ≤ a ∧ a ≤ 0x03AF then some ((keyExpansion s.key s.sbox).getD (a - 0x0300) 0)
        else if 0x8000 ≤ a ∧ a < 0x8000 + N then
          some ((cbcEncryptBlocks (pad (s.din L)) (keyExpansion s.key s.sbox) s.sbox s.iv).getD (a - 0x8000) 0)
        else Memory.read s.mem a)

/-- CBC_DEC (R227, R231, R232, and R258's order): its three errors, and on success EXPKEY from Swap(ISBOX), the whole
decryption in DOUT[0..LEN), OUTLEN the unpadded length, and nothing else. Undefined bytes: assumption 1. -/
def Obligations.CbcDecOutcome : Prop :=
  ∀ s : State,
    let L := s.len.toNat
    let EK := keyExpansion s.key (swap s.isbox)
    let D := cbcDecryptBlocks (s.din L) EK s.isbox s.iv
    (L % 16 ≠ 0 → ∃ t, exec .cbcDec s = .next t ∧ FailedWith s t 0x01) ∧
    (L % 16 = 0 → s.bufBytes.toNat < L → ∃ t, exec .cbcDec s = .next t ∧ FailedWith s t 0x05) ∧
    (L % 16 = 0 → L ≤ s.bufBytes.toNat → ¬ DistinctAt s 0x0200 →
      ∃ t, exec .cbcDec s = .next t ∧ FailedWith s t 0x03) ∧
    (L % 16 = 0 → L ≤ s.bufBytes.toNat → DistinctAt s 0x0200 → ∃ t, exec .cbcDec s = .next t ∧ Succeeded s t ∧
      t.result = s.result ∧ t.outLen.toNat = unpadLen D ∧
      ∀ a, Memory.read t.mem a =
        if 0x0300 ≤ a ∧ a ≤ 0x03AF then some (EK.getD (a - 0x0300) 0)
        else if 0x8000 ≤ a ∧ a < 0x8000 + L then some (D.getD (a - 0x8000) 0)
        else Memory.read s.mem a)

/-- R234, where the inputs of both commands are defined (R285): CBC_DEC of what CBC_ENC left in DOUT, with the same KEY
and IV and ISBOX = Swap(SBOX), gives back the plaintext and its length. -/
def Obligations.CbcRoundTrip : Prop :=
  ∀ s t u : State, inputsDefined .cbcEnc s = true → inputsDefined .cbcDec u = true →
    BufBytes.wf s.bufBytes.toNat = true → DistinctAt s 0x0100 → s.len.toNat < s.bufBytes.toNat → exec .cbcEnc s = .next t →
    u.bufBytes = s.bufBytes → u.key = s.key → u.iv = s.iv → u.isbox = swap s.sbox → u.len = t.outLen →
    u.din t.outLen.toNat = t.dout t.outLen.toNat →
    ∃ w, exec .cbcDec u = .next w ∧ Succeeded u w ∧ w.outLen = s.len ∧ w.dout s.len.toNat = s.din s.len.toNat

/-! ## The whole machine -/

/-- Every step keeps the lifecycle invariant (R24 to R28, R30, R251, R257). -/
def Obligations.StepKeepsLifecycle : Prop :=
  ∀ s t : State, Lifecycle s → step s = .next t → Lifecycle t

/-- Every step keeps the storage invariant (R6, R22, R34, R232, R281). -/
def Obligations.StepKeepsStorage : Prop :=
  ∀ s t : State, Storage s → step s = .next t → Storage t

/-- The outcome of a command does not depend on when it completes (R43, R93, R95, R296, D41): whatever reads and writes
the host makes while a byte is in flight, its completion, by a turn of the command unit or because no event is to come,
leaves the state its completion at once would leave, but for OVR, which a write has set, and the model's own fields. At
once, a command leaves what exec gives, and a byte that names no command fails with IllegalCommand. The order of events:
assumption 2. Undefined bytes: assumption 1. -/
def Obligations.LatencyDoesNotMatter : Prop :=
  ∀ (s : State) (es later : List Event), s.busy = true →
    (∀ e ∈ es, (∃ a, e = .read a) ∨ ∃ a v, e = .write a v) → UnitsTurn later → s.schedule = es ++ later →
    ∃ t u : State, core.run (es.length + 1) s = .next t ∧
      (∀ i, decode s.lastCmd = .ok i → exec i s = .next u) ∧
      ((∀ i, decode s.lastCmd ≠ .ok i) → FailedWith s u 0x04) ∧
      t = { u with ovr := t.ovr, schedule := later.tail, busData := t.busData, draws := t.draws } ∧
      (t.ovr = true ↔ s.ovr = true ∨ ∃ a v, Event.write a v ∈ es)

/-- Every accepted command completes (R296), or a reset abandons it (R282): within one step more than the events to come,
the engine is no longer busy, and either LASTCMD still names the command and DONE is 1, or a reset was among the events
of those steps. The bound rests on the model's fairness: with no event to come the command unit has its turn
(assumption 2). -/
def Obligations.EveryAcceptedCommandEnds : Prop :=
  ∀ s : State, s.busy = true → ∃ k ≤ s.schedule.length + 1, ∃ t : State, core.run k s = .next t ∧ t.busy = false ∧
    ((t.doneFlag = true ∧ t.lastCmd = s.lastCmd) ∨ Event.reset ∈ s.schedule.take k)
end

