-- ==== Sys2Proof/Laws/State.lean ====
section
/-! SUPPORT. The small lemmas of the state's updates: one per field per update, each true by rfl, so that no later proof
unfolds a record update; and the five names of a block store. -/

namespace Sys2Proof.Machine

variable (s : State)

section succeed
@[simp] theorem State.succeed_lastCmd : s.succeed.lastCmd = s.lastCmd := rfl
@[simp] theorem State.succeed_busy : s.succeed.busy = false := rfl
@[simp] theorem State.succeed_doneFlag : s.succeed.doneFlag = true := rfl
@[simp] theorem State.succeed_err : s.succeed.err = false := rfl
@[simp] theorem State.succeed_ovr : s.succeed.ovr = s.ovr := rfl
@[simp] theorem State.succeed_errCode : s.succeed.errCode = 0x00 := rfl
@[simp] theorem State.succeed_opa : s.succeed.opa = s.opa := rfl
@[simp] theorem State.succeed_opb : s.succeed.opb = s.opb := rfl
@[simp] theorem State.succeed_result : s.succeed.result = s.result := rfl
@[simp] theorem State.succeed_len : s.succeed.len = s.len := rfl
@[simp] theorem State.succeed_outLen : s.succeed.outLen = s.outLen := rfl
@[simp] theorem State.succeed_bufBytes : s.succeed.bufBytes = s.bufBytes := rfl
@[simp] theorem State.succeed_mem : s.succeed.mem = s.mem := rfl
@[simp] theorem State.succeed_schedule : s.succeed.schedule = s.schedule := rfl
@[simp] theorem State.succeed_busData : s.succeed.busData = s.busData := rfl
@[simp] theorem State.succeed_draws : s.succeed.draws = s.draws := rfl
@[simp] theorem State.succeed_epoch : s.succeed.epoch = s.epoch := rfl
end succeed

section failWith
@[simp] theorem State.failWith_lastCmd (e : CmdError) : (s.failWith e).lastCmd = s.lastCmd := rfl
@[simp] theorem State.failWith_busy (e : CmdError) : (s.failWith e).busy = false := rfl
@[simp] theorem State.failWith_doneFlag (e : CmdError) : (s.failWith e).doneFlag = true := rfl
@[simp] theorem State.failWith_err (e : CmdError) : (s.failWith e).err = true := rfl
@[simp] theorem State.failWith_ovr (e : CmdError) : (s.failWith e).ovr = s.ovr := rfl
@[simp] theorem State.failWith_errCode (e : CmdError) : (s.failWith e).errCode = e.code := rfl
@[simp] theorem State.failWith_opa (e : CmdError) : (s.failWith e).opa = s.opa := rfl
@[simp] theorem State.failWith_opb (e : CmdError) : (s.failWith e).opb = s.opb := rfl
@[simp] theorem State.failWith_result (e : CmdError) : (s.failWith e).result = s.result := rfl
@[simp] theorem State.failWith_len (e : CmdError) : (s.failWith e).len = s.len := rfl
@[simp] theorem State.failWith_outLen (e : CmdError) : (s.failWith e).outLen = s.outLen := rfl
@[simp] theorem State.failWith_bufBytes (e : CmdError) : (s.failWith e).bufBytes = s.bufBytes := rfl
@[simp] theorem State.failWith_mem (e : CmdError) : (s.failWith e).mem = s.mem := rfl
@[simp] theorem State.failWith_schedule (e : CmdError) : (s.failWith e).schedule = s.schedule := rfl
@[simp] theorem State.failWith_busData (e : CmdError) : (s.failWith e).busData = s.busData := rfl
@[simp] theorem State.failWith_draws (e : CmdError) : (s.failWith e).draws = s.draws := rfl
@[simp] theorem State.failWith_epoch (e : CmdError) : (s.failWith e).epoch = s.epoch := rfl
end failWith

section accept
@[simp] theorem State.accept_lastCmd (v : Byte) : (s.accept v).lastCmd = v := rfl
@[simp] theorem State.accept_busy (v : Byte) : (s.accept v).busy = true := rfl
@[simp] theorem State.accept_doneFlag (v : Byte) : (s.accept v).doneFlag = false := rfl
@[simp] theorem State.accept_err (v : Byte) : (s.accept v).err = false := rfl
@[simp] theorem State.accept_ovr (v : Byte) : (s.accept v).ovr = false := rfl
@[simp] theorem State.accept_errCode (v : Byte) : (s.accept v).errCode = 0x00 := rfl
@[simp] theorem State.accept_opa (v : Byte) : (s.accept v).opa = s.opa := rfl
@[simp] theorem State.accept_opb (v : Byte) : (s.accept v).opb = s.opb := rfl
@[simp] theorem State.accept_result (v : Byte) : (s.accept v).result = s.result := rfl
@[simp] theorem State.accept_len (v : Byte) : (s.accept v).len = s.len := rfl
@[simp] theorem State.accept_outLen (v : Byte) : (s.accept v).outLen = s.outLen := rfl
@[simp] theorem State.accept_bufBytes (v : Byte) : (s.accept v).bufBytes = s.bufBytes := rfl
@[simp] theorem State.accept_mem (v : Byte) : (s.accept v).mem = s.mem := rfl
@[simp] theorem State.accept_schedule (v : Byte) : (s.accept v).schedule = s.schedule := rfl
@[simp] theorem State.accept_busData (v : Byte) : (s.accept v).busData = s.busData := rfl
@[simp] theorem State.accept_draws (v : Byte) : (s.accept v).draws = s.draws := rfl
@[simp] theorem State.accept_epoch (v : Byte) : (s.accept v).epoch = s.epoch := rfl
end accept

section dropWrite
@[simp] theorem State.dropWrite_lastCmd : s.dropWrite.lastCmd = s.lastCmd := rfl
@[simp] theorem State.dropWrite_busy : s.dropWrite.busy = s.busy := rfl
@[simp] theorem State.dropWrite_doneFlag : s.dropWrite.doneFlag = s.doneFlag := rfl
@[simp] theorem State.dropWrite_err : s.dropWrite.err = s.err := rfl
@[simp] theorem State.dropWrite_ovr : s.dropWrite.ovr = true := rfl
@[simp] theorem State.dropWrite_errCode : s.dropWrite.errCode = s.errCode := rfl
@[simp] theorem State.dropWrite_opa : s.dropWrite.opa = s.opa := rfl
@[simp] theorem State.dropWrite_opb : s.dropWrite.opb = s.opb := rfl
@[simp] theorem State.dropWrite_result : s.dropWrite.result = s.result := rfl
@[simp] theorem State.dropWrite_len : s.dropWrite.len = s.len := rfl
@[simp] theorem State.dropWrite_outLen : s.dropWrite.outLen = s.outLen := rfl
@[simp] theorem State.dropWrite_bufBytes : s.dropWrite.bufBytes = s.bufBytes := rfl
@[simp] theorem State.dropWrite_mem : s.dropWrite.mem = s.mem := rfl
@[simp] theorem State.dropWrite_schedule : s.dropWrite.schedule = s.schedule := rfl
@[simp] theorem State.dropWrite_busData : s.dropWrite.busData = s.busData := rfl
@[simp] theorem State.dropWrite_draws : s.dropWrite.draws = s.draws := rfl
@[simp] theorem State.dropWrite_epoch : s.dropWrite.epoch = s.epoch := rfl
end dropWrite

section answer
@[simp] theorem State.answer_lastCmd (v : Byte) : (s.answer v).lastCmd = s.lastCmd := rfl
@[simp] theorem State.answer_busy (v : Byte) : (s.answer v).busy = s.busy := rfl
@[simp] theorem State.answer_doneFlag (v : Byte) : (s.answer v).doneFlag = s.doneFlag := rfl
@[simp] theorem State.answer_err (v : Byte) : (s.answer v).err = s.err := rfl
@[simp] theorem State.answer_ovr (v : Byte) : (s.answer v).ovr = s.ovr := rfl
@[simp] theorem State.answer_errCode (v : Byte) : (s.answer v).errCode = s.errCode := rfl
@[simp] theorem State.answer_opa (v : Byte) : (s.answer v).opa = s.opa := rfl
@[simp] theorem State.answer_opb (v : Byte) : (s.answer v).opb = s.opb := rfl
@[simp] theorem State.answer_result (v : Byte) : (s.answer v).result = s.result := rfl
@[simp] theorem State.answer_len (v : Byte) : (s.answer v).len = s.len := rfl
@[simp] theorem State.answer_outLen (v : Byte) : (s.answer v).outLen = s.outLen := rfl
@[simp] theorem State.answer_bufBytes (v : Byte) : (s.answer v).bufBytes = s.bufBytes := rfl
@[simp] theorem State.answer_mem (v : Byte) : (s.answer v).mem = s.mem := rfl
@[simp] theorem State.answer_schedule (v : Byte) : (s.answer v).schedule = s.schedule := rfl
@[simp] theorem State.answer_busData (v : Byte) : (s.answer v).busData = some v := rfl
@[simp] theorem State.answer_draws (v : Byte) : (s.answer v).draws = s.draws := rfl
@[simp] theorem State.answer_epoch (v : Byte) : (s.answer v).epoch = s.epoch := rfl
end answer

section nextDraw
@[simp] theorem State.nextDraw_lastCmd : s.nextDraw.lastCmd = s.lastCmd := rfl
@[simp] theorem State.nextDraw_busy : s.nextDraw.busy = s.busy := rfl
@[simp] theorem State.nextDraw_doneFlag : s.nextDraw.doneFlag = s.doneFlag := rfl
@[simp] theorem State.nextDraw_err : s.nextDraw.err = s.err := rfl
@[simp] theorem State.nextDraw_ovr : s.nextDraw.ovr = s.ovr := rfl
@[simp] theorem State.nextDraw_errCode : s.nextDraw.errCode = s.errCode := rfl
@[simp] theorem State.nextDraw_opa : s.nextDraw.opa = s.opa := rfl
@[simp] theorem State.nextDraw_opb : s.nextDraw.opb = s.opb := rfl
@[simp] theorem State.nextDraw_result : s.nextDraw.result = s.result := rfl
@[simp] theorem State.nextDraw_len : s.nextDraw.len = s.len := rfl
@[simp] theorem State.nextDraw_outLen : s.nextDraw.outLen = s.outLen := rfl
@[simp] theorem State.nextDraw_bufBytes : s.nextDraw.bufBytes = s.bufBytes := rfl
@[simp] theorem State.nextDraw_mem : s.nextDraw.mem = s.mem := rfl
@[simp] theorem State.nextDraw_schedule : s.nextDraw.schedule = s.schedule := rfl
@[simp] theorem State.nextDraw_busData : s.nextDraw.busData = s.busData := rfl
@[simp] theorem State.nextDraw_draws : s.nextDraw.draws = s.draws + 1 := rfl
@[simp] theorem State.nextDraw_epoch : s.nextDraw.epoch = s.epoch := rfl
end nextDraw

section setSchedule
@[simp] theorem State.setSchedule_lastCmd (es : List Event) : (s.setSchedule es).lastCmd = s.lastCmd := rfl
@[simp] theorem State.setSchedule_busy (es : List Event) : (s.setSchedule es).busy = s.busy := rfl
@[simp] theorem State.setSchedule_doneFlag (es : List Event) : (s.setSchedule es).doneFlag = s.doneFlag := rfl
@[simp] theorem State.setSchedule_err (es : List Event) : (s.setSchedule es).err = s.err := rfl
@[simp] theorem State.setSchedule_ovr (es : List Event) : (s.setSchedule es).ovr = s.ovr := rfl
@[simp] theorem State.setSchedule_errCode (es : List Event) : (s.setSchedule es).errCode = s.errCode := rfl
@[simp] theorem State.setSchedule_opa (es : List Event) : (s.setSchedule es).opa = s.opa := rfl
@[simp] theorem State.setSchedule_opb (es : List Event) : (s.setSchedule es).opb = s.opb := rfl
@[simp] theorem State.setSchedule_result (es : List Event) : (s.setSchedule es).result = s.result := rfl
@[simp] theorem State.setSchedule_len (es : List Event) : (s.setSchedule es).len = s.len := rfl
@[simp] theorem State.setSchedule_outLen (es : List Event) : (s.setSchedule es).outLen = s.outLen := rfl
@[simp] theorem State.setSchedule_bufBytes (es : List Event) : (s.setSchedule es).bufBytes = s.bufBytes := rfl
@[simp] theorem State.setSchedule_mem (es : List Event) : (s.setSchedule es).mem = s.mem := rfl
@[simp] theorem State.setSchedule_schedule (es : List Event) : (s.setSchedule es).schedule = es := rfl
@[simp] theorem State.setSchedule_busData (es : List Event) : (s.setSchedule es).busData = s.busData := rfl
@[simp] theorem State.setSchedule_draws (es : List Event) : (s.setSchedule es).draws = s.draws := rfl
@[simp] theorem State.setSchedule_epoch (es : List Event) : (s.setSchedule es).epoch = s.epoch := rfl
end setSchedule

section storeByte
@[simp] theorem State.storeByte_lastCmd (a : Nat) (v : Byte) : (s.storeByte a v).lastCmd = s.lastCmd := rfl
@[simp] theorem State.storeByte_busy (a : Nat) (v : Byte) : (s.storeByte a v).busy = s.busy := rfl
@[simp] theorem State.storeByte_doneFlag (a : Nat) (v : Byte) : (s.storeByte a v).doneFlag = s.doneFlag := rfl
@[simp] theorem State.storeByte_err (a : Nat) (v : Byte) : (s.storeByte a v).err = s.err := rfl
@[simp] theorem State.storeByte_ovr (a : Nat) (v : Byte) : (s.storeByte a v).ovr = s.ovr := rfl
@[simp] theorem State.storeByte_errCode (a : Nat) (v : Byte) : (s.storeByte a v).errCode = s.errCode := rfl
@[simp] theorem State.storeByte_opa (a : Nat) (v : Byte) : (s.storeByte a v).opa = s.opa := rfl
@[simp] theorem State.storeByte_opb (a : Nat) (v : Byte) : (s.storeByte a v).opb = s.opb := rfl
@[simp] theorem State.storeByte_result (a : Nat) (v : Byte) : (s.storeByte a v).result = s.result := rfl
@[simp] theorem State.storeByte_len (a : Nat) (v : Byte) : (s.storeByte a v).len = s.len := rfl
@[simp] theorem State.storeByte_outLen (a : Nat) (v : Byte) : (s.storeByte a v).outLen = s.outLen := rfl
@[simp] theorem State.storeByte_bufBytes (a : Nat) (v : Byte) : (s.storeByte a v).bufBytes = s.bufBytes := rfl
@[simp] theorem State.storeByte_mem (a : Nat) (v : Byte) : (s.storeByte a v).mem = Memory.write s.mem a v := rfl
@[simp] theorem State.storeByte_schedule (a : Nat) (v : Byte) : (s.storeByte a v).schedule = s.schedule := rfl
@[simp] theorem State.storeByte_busData (a : Nat) (v : Byte) : (s.storeByte a v).busData = s.busData := rfl
@[simp] theorem State.storeByte_draws (a : Nat) (v : Byte) : (s.storeByte a v).draws = s.draws := rfl
@[simp] theorem State.storeByte_epoch (a : Nat) (v : Byte) : (s.storeByte a v).epoch = s.epoch := rfl
end storeByte

section storeBlock
@[simp] theorem State.storeBlock_lastCmd (a : Nat) (vs : List Byte) : (s.storeBlock a vs).lastCmd = s.lastCmd := rfl
@[simp] theorem State.storeBlock_busy (a : Nat) (vs : List Byte) : (s.storeBlock a vs).busy = s.busy := rfl
@[simp] theorem State.storeBlock_doneFlag (a : Nat) (vs : List Byte) : (s.storeBlock a vs).doneFlag = s.doneFlag := rfl
@[simp] theorem State.storeBlock_err (a : Nat) (vs : List Byte) : (s.storeBlock a vs).err = s.err := rfl
@[simp] theorem State.storeBlock_ovr (a : Nat) (vs : List Byte) : (s.storeBlock a vs).ovr = s.ovr := rfl
@[simp] theorem State.storeBlock_errCode (a : Nat) (vs : List Byte) : (s.storeBlock a vs).errCode = s.errCode := rfl
@[simp] theorem State.storeBlock_opa (a : Nat) (vs : List Byte) : (s.storeBlock a vs).opa = s.opa := rfl
@[simp] theorem State.storeBlock_opb (a : Nat) (vs : List Byte) : (s.storeBlock a vs).opb = s.opb := rfl
@[simp] theorem State.storeBlock_result (a : Nat) (vs : List Byte) : (s.storeBlock a vs).result = s.result := rfl
@[simp] theorem State.storeBlock_len (a : Nat) (vs : List Byte) : (s.storeBlock a vs).len = s.len := rfl
@[simp] theorem State.storeBlock_outLen (a : Nat) (vs : List Byte) : (s.storeBlock a vs).outLen = s.outLen := rfl
@[simp] theorem State.storeBlock_bufBytes (a : Nat) (vs : List Byte) : (s.storeBlock a vs).bufBytes = s.bufBytes := rfl
@[simp] theorem State.storeBlock_mem (a : Nat) (vs : List Byte) : (s.storeBlock a vs).mem = Memory.writeBlock s.mem a vs := rfl
@[simp] theorem State.storeBlock_schedule (a : Nat) (vs : List Byte) : (s.storeBlock a vs).schedule = s.schedule := rfl
@[simp] theorem State.storeBlock_busData (a : Nat) (vs : List Byte) : (s.storeBlock a vs).busData = s.busData := rfl
@[simp] theorem State.storeBlock_draws (a : Nat) (vs : List Byte) : (s.storeBlock a vs).draws = s.draws := rfl
@[simp] theorem State.storeBlock_epoch (a : Nat) (vs : List Byte) : (s.storeBlock a vs).epoch = s.epoch := rfl
end storeBlock

section setResult
@[simp] theorem State.setResult_lastCmd (v : Byte) : (s.setResult v).lastCmd = s.lastCmd := rfl
@[simp] theorem State.setResult_busy (v : Byte) : (s.setResult v).busy = s.busy := rfl
@[simp] theorem State.setResult_doneFlag (v : Byte) : (s.setResult v).doneFlag = s.doneFlag := rfl
@[simp] theorem State.setResult_err (v : Byte) : (s.setResult v).err = s.err := rfl
@[simp] theorem State.setResult_ovr (v : Byte) : (s.setResult v).ovr = s.ovr := rfl
@[simp] theorem State.setResult_errCode (v : Byte) : (s.setResult v).errCode = s.errCode := rfl
@[simp] theorem State.setResult_opa (v : Byte) : (s.setResult v).opa = s.opa := rfl
@[simp] theorem State.setResult_opb (v : Byte) : (s.setResult v).opb = s.opb := rfl
@[simp] theorem State.setResult_result (v : Byte) : (s.setResult v).result = v := rfl
@[simp] theorem State.setResult_len (v : Byte) : (s.setResult v).len = s.len := rfl
@[simp] theorem State.setResult_outLen (v : Byte) : (s.setResult v).outLen = s.outLen := rfl
@[simp] theorem State.setResult_bufBytes (v : Byte) : (s.setResult v).bufBytes = s.bufBytes := rfl
@[simp] theorem State.setResult_mem (v : Byte) : (s.setResult v).mem = s.mem := rfl
@[simp] theorem State.setResult_schedule (v : Byte) : (s.setResult v).schedule = s.schedule := rfl
@[simp] theorem State.setResult_busData (v : Byte) : (s.setResult v).busData = s.busData := rfl
@[simp] theorem State.setResult_draws (v : Byte) : (s.setResult v).draws = s.draws := rfl
@[simp] theorem State.setResult_epoch (v : Byte) : (s.setResult v).epoch = s.epoch := rfl
end setResult

section setOutLen
@[simp] theorem State.setOutLen_lastCmd (n : Nat) : (s.setOutLen n).lastCmd = s.lastCmd := rfl
@[simp] theorem State.setOutLen_busy (n : Nat) : (s.setOutLen n).busy = s.busy := rfl
@[simp] theorem State.setOutLen_doneFlag (n : Nat) : (s.setOutLen n).doneFlag = s.doneFlag := rfl
@[simp] theorem State.setOutLen_err (n : Nat) : (s.setOutLen n).err = s.err := rfl
@[simp] theorem State.setOutLen_ovr (n : Nat) : (s.setOutLen n).ovr = s.ovr := rfl
@[simp] theorem State.setOutLen_errCode (n : Nat) : (s.setOutLen n).errCode = s.errCode := rfl
@[simp] theorem State.setOutLen_opa (n : Nat) : (s.setOutLen n).opa = s.opa := rfl
@[simp] theorem State.setOutLen_opb (n : Nat) : (s.setOutLen n).opb = s.opb := rfl
@[simp] theorem State.setOutLen_result (n : Nat) : (s.setOutLen n).result = s.result := rfl
@[simp] theorem State.setOutLen_len (n : Nat) : (s.setOutLen n).len = s.len := rfl
@[simp] theorem State.setOutLen_outLen (n : Nat) : (s.setOutLen n).outLen = BitVec.ofNat 16 n := rfl
@[simp] theorem State.setOutLen_bufBytes (n : Nat) : (s.setOutLen n).bufBytes = s.bufBytes := rfl
@[simp] theorem State.setOutLen_mem (n : Nat) : (s.setOutLen n).mem = s.mem := rfl
@[simp] theorem State.setOutLen_schedule (n : Nat) : (s.setOutLen n).schedule = s.schedule := rfl
@[simp] theorem State.setOutLen_busData (n : Nat) : (s.setOutLen n).busData = s.busData := rfl
@[simp] theorem State.setOutLen_draws (n : Nat) : (s.setOutLen n).draws = s.draws := rfl
@[simp] theorem State.setOutLen_epoch (n : Nat) : (s.setOutLen n).epoch = s.epoch := rfl
end setOutLen

section hardReset
@[simp] theorem State.hardReset_lastCmd : s.hardReset.lastCmd = 0x00 := rfl
@[simp] theorem State.hardReset_busy : s.hardReset.busy = false := rfl
@[simp] theorem State.hardReset_doneFlag : s.hardReset.doneFlag = false := rfl
@[simp] theorem State.hardReset_err : s.hardReset.err = false := rfl
@[simp] theorem State.hardReset_ovr : s.hardReset.ovr = false := rfl
@[simp] theorem State.hardReset_errCode : s.hardReset.errCode = 0x00 := rfl
@[simp] theorem State.hardReset_opa : s.hardReset.opa = 0x00 := rfl
@[simp] theorem State.hardReset_opb : s.hardReset.opb = 0x00 := rfl
@[simp] theorem State.hardReset_result : s.hardReset.result = 0x00 := rfl
@[simp] theorem State.hardReset_len : s.hardReset.len = 0x0000 := rfl
@[simp] theorem State.hardReset_outLen : s.hardReset.outLen = 0x0000 := rfl
@[simp] theorem State.hardReset_bufBytes : s.hardReset.bufBytes = s.bufBytes := rfl
@[simp] theorem State.hardReset_mem : s.hardReset.mem = [] := rfl
@[simp] theorem State.hardReset_schedule : s.hardReset.schedule = s.schedule := rfl
@[simp] theorem State.hardReset_busData : s.hardReset.busData = none := rfl
@[simp] theorem State.hardReset_draws : s.hardReset.draws = s.draws + 1 := rfl
@[simp] theorem State.hardReset_epoch : s.hardReset.epoch = s.epoch + 1 := rfl
end hardReset

theorem State.setBlk_eq (vs : List Byte) : s.setBlk vs = s.storeBlock Item.blk.base vs := rfl
theorem State.setSbox_eq (vs : List Byte) : s.setSbox vs = s.storeBlock Item.sbox.base vs := rfl
theorem State.setIsbox_eq (vs : List Byte) : s.setIsbox vs = s.storeBlock Item.isbox.base vs := rfl
theorem State.setExpkey_eq (vs : List Byte) : s.setExpkey vs = s.storeBlock Item.expkey.base vs := rfl
theorem State.setDout_eq (vs : List Byte) : s.setDout vs = s.storeBlock Item.dout.base vs := rfl

@[simp] theorem State.complete_ok (t : State) : s.complete (.ok t) = t.succeed := rfl
@[simp] theorem State.complete_error (e : CmdError) : s.complete (.error e) = s.failWith e := rfl

end Sys2Proof.Machine
end

