-- ==== Sys2Proof/Laws/Memory.lean ====
section
/-! SUPPORT. What the memory operations do: a read after a write, a read after a block store, and that every operation
keeps the canonical form. -/

namespace Sys2Proof.Machine

theorem Memory.read_write (m : List Host.Cell) (a c : Nat) (v : Byte) :
    Memory.read (Memory.write m a v) c = if c = a then some v else Memory.read m c := by
  induction m with
  | nil => simp [Memory.write, Memory.read, eq_comm]
  | cons x rest ih =>
    obtain ⟨b, w⟩ := x
    simp only [Memory.write]
    split_ifs with h1 h2 h3 h3 h3 <;> simp_all [Memory.read, eq_comm]

theorem Memory.read_write_self (m : List Host.Cell) (a : Nat) (v : Byte) :
    Memory.read (Memory.write m a v) a = some v := by
  simp [Memory.read_write]

theorem Memory.read_write_other (m : List Host.Cell) {a c : Nat} (v : Byte) (h : c ≠ a) :
    Memory.read (Memory.write m a v) c = Memory.read m c := by
  simp [Memory.read_write, h]

/-- A block store defines exactly its own addresses, element `i` at base + i. -/
theorem Memory.read_writeBlock (vs : List Byte) (m : List Host.Cell) (a c : Nat) :
    Memory.read (Memory.writeBlock m a vs) c =
      if a ≤ c ∧ c < a + vs.length then vs[c - a]? else Memory.read m c := by
  induction vs generalizing m a with
  | nil => simp [Memory.writeBlock]
  | cons v vs ih =>
    rw [Memory.writeBlock, ih, Memory.read_write]
    by_cases hc : c = a
    · subst hc; simp
    · by_cases hr : a ≤ c ∧ c < a + (vs.length + 1)
      · obtain ⟨k, rfl⟩ : ∃ k, c = a + 1 + k := ⟨c - (a + 1), by omega⟩
        have hk : a + 1 + k - a = k + 1 := by omega
        simp only [List.length_cons, hk, List.getElem?_cons_succ]
        rw [if_pos (by omega), if_pos (by omega), Nat.add_sub_cancel_left]
      · rw [if_neg (by omega), if_neg hc, if_neg (by simpa using hr)]

theorem Memory.read_writeBlock_outside (vs : List Byte) (m : List Host.Cell) {a c : Nat}
    (h : c < a ∨ a + vs.length ≤ c) : Memory.read (Memory.writeBlock m a vs) c = Memory.read m c := by
  rw [Memory.read_writeBlock, if_neg (by omega)]

/-- The addresses a write lists are the old ones and its own. -/
theorem Memory.mem_write {m : List Host.Cell} {a : Nat} {v : Byte} {x : Nat} :
    x ∈ (Memory.write m a v).map Prod.fst ↔ x = a ∨ x ∈ m.map Prod.fst := by
  induction m with
  | nil => simp [Memory.write]
  | cons y rest ih =>
    obtain ⟨b, w⟩ := y
    simp only [Memory.write]
    split_ifs with h1 h2
    · simp
    · subst h2; simp
    · rw [List.map_cons, List.mem_cons, ih, List.map_cons, List.mem_cons]; tauto

theorem Memory.mem_writeBlock {vs : List Byte} {m : List Host.Cell} {a x : Nat} :
    x ∈ (Memory.writeBlock m a vs).map Prod.fst ↔ (a ≤ x ∧ x < a + vs.length) ∨ x ∈ m.map Prod.fst := by
  induction vs generalizing m a with
  | nil => simp [Memory.writeBlock]
  | cons v vs ih =>
    rw [Memory.writeBlock, ih, Memory.mem_write, List.length_cons, ← or_assoc]
    refine or_congr_left ?_
    omega

theorem Memory.wf_nil : Memory.wf [] := List.Pairwise.nil

/-- A write keeps the canonical form. -/
theorem Memory.wf_write {m : List Host.Cell} (h : Memory.wf m) (a : Nat) (v : Byte) :
    Memory.wf (Memory.write m a v) := by
  induction m with
  | nil => simp [Memory.wf, Memory.write]
  | cons y rest ih =>
    obtain ⟨b, w⟩ := y
    have h' := List.pairwise_cons.mp h
    simp only [Memory.write]
    split_ifs with h1 h2
    · refine List.pairwise_cons.mpr ⟨fun x hx => ?_, h⟩
      rcases List.mem_cons.mp hx with rfl | hx
      · exact h1
      · exact lt_trans h1 (h'.1 x hx)
    · subst h2; exact h
    · refine List.pairwise_cons.mpr ⟨fun x hx => ?_, ih h'.2⟩
      rcases Memory.mem_write.mp hx with rfl | hx
      · simp only at *; omega
      · exact h'.1 x hx

/-- A block store keeps the canonical form. -/
theorem Memory.wf_writeBlock {m : List Host.Cell} (h : Memory.wf m) (a : Nat) (vs : List Byte) :
    Memory.wf (Memory.writeBlock m a vs) := by
  induction vs generalizing m a with
  | nil => exact h
  | cons v vs ih => exact ih (Memory.wf_write h a v) (a + 1)

/-- The memory of the reset state has the canonical form. -/
theorem State.reset_mem_wf : Memory.wf State.reset.mem := Memory.wf_nil

/-- In the canonical form a listed pair is what a read finds. -/
theorem Memory.read_of_mem {m : List Host.Cell} (h : Memory.wf m) {a : Nat} {v : Byte} (hm : (a, v) ∈ m) :
    Memory.read m a = some v := by
  induction m with
  | nil => simp at hm
  | cons y rest ih =>
    obtain ⟨b, w⟩ := y
    have h' := List.pairwise_cons.mp h
    rcases List.mem_cons.mp hm with heq | hm
    · cases heq; simp [Memory.read]
    · have hlt : b < a := h'.1 a (List.mem_map_of_mem (f := Prod.fst) hm)
      rw [Memory.read, if_neg (by omega), ih h'.2 hm]

/-- A byte is defined exactly when its address is listed. -/
theorem Memory.isSome_read {m : List Host.Cell} {a : Nat} :
    (Memory.read m a).isSome = true ↔ a ∈ m.map Prod.fst := by
  induction m with
  | nil => simp [Memory.read]
  | cons y rest ih =>
    obtain ⟨b, w⟩ := y
    by_cases hb : b = a
    · subst hb; simp [Memory.read]
    · rw [Memory.read, if_neg hb, ih, List.map_cons, List.mem_cons]
      simp [Ne.symm hb]

end Sys2Proof.Machine
end

