-- ==== Sys2Proof/Laws/Ops.lean ====
section
/-! SUPPORT. One lemma per shared operation: what a load, a block load, a block store, completion, a bus transaction and
the address map do, said once, so that later proofs cite these. -/

namespace Sys2Proof.Machine

@[simp] theorem State.loadBlock_length (s : State) (base n : Nat) : (s.loadBlock base n).length = n := by
  simp [State.loadBlock]

theorem State.loadBlock_getD (s : State) (base n k : Nat) (h : k < n) :
    (s.loadBlock base n).getD k 0 = s.load (base + k) := by
  simp [State.loadBlock, h]

/-- A load depends on the memory and the epoch alone. -/
theorem State.load_congr {s t : State} (hm : t.mem = s.mem) (he : t.epoch = s.epoch) (a : Nat) :
    t.load a = s.load a := by
  rw [State.load, State.load, hm, he]

theorem State.load_of_defined {s : State} {a : Nat} {v : Byte} (h : Memory.read s.mem a = some v) :
    s.load a = v := by
  rw [State.load, h]; rfl

/-- A block that is defined is defined at each of its addresses. -/
theorem State.defined_iff {s : State} {base n : Nat} :
    s.defined base n = true ↔ ∀ k < n, (Memory.read s.mem (base + k)).isSome = true := by
  simp [State.defined]

theorem State.load_storeByte (s : State) (a c : Nat) (v : Byte) :
    (s.storeByte a v).load c = if c = a then v else s.load c := by
  simp only [State.load, State.storeByte_mem, State.storeByte_epoch, Memory.read_write]
  split_ifs <;> rfl

/-- A block store changes the loads of its own addresses and no other. -/
theorem State.load_storeBlock (s : State) (base c : Nat) (vs : List Byte) :
    (s.storeBlock base vs).load c =
      if base ≤ c ∧ c < base + vs.length then vs.getD (c - base) 0 else s.load c := by
  simp only [State.load, State.storeBlock_mem, State.storeBlock_epoch, Memory.read_writeBlock]
  split_ifs with h
  · rw [List.getD_eq_getElem?_getD, List.getElem?_eq_getElem (by omega)]; rfl
  · rfl

/-- A block read back where it was stored is the block. -/
theorem State.loadBlock_storeBlock_self (s : State) (base : Nat) (vs : List Byte) {n : Nat} (h : vs.length = n) :
    (s.storeBlock base vs).loadBlock base n = vs := by
  subst h
  refine List.ext_getElem (by simp) fun k h1 h2 => ?_
  simp only [State.loadBlock, List.getElem_map, List.getElem_range, State.load_storeBlock]
  rw [if_pos (by omega), Nat.add_sub_cancel_left, List.getD_eq_getElem _ _ h2]

/-- A block elsewhere is unchanged by a block store. -/
theorem State.loadBlock_storeBlock_other (s : State) {base b n : Nat} (vs : List Byte)
    (h : b + n ≤ base ∨ base + vs.length ≤ b) : (s.storeBlock base vs).loadBlock b n = s.loadBlock b n := by
  refine List.ext_getElem (by simp) fun k h1 h2 => ?_
  have hk : k < n := by simpa using h1
  simp only [State.loadBlock, List.getElem_map, List.getElem_range, State.load_storeBlock]
  rw [if_neg (by omega)]

/-- A block load depends on the memory and the epoch alone. -/
theorem State.loadBlock_congr {s t : State} (hm : t.mem = s.mem) (he : t.epoch = s.epoch) (b n : Nat) :
    t.loadBlock b n = s.loadBlock b n := by
  simp only [State.loadBlock, State.load_congr hm he]

/-- The table at a base address has pairwise distinct entries exactly when its 256 bytes have no repeat. -/
theorem distinctAt_iff (s : State) (base : Nat) :
    Safety.DistinctAt s base ↔ (s.loadBlock base 256).Nodup := by
  rw [State.loadBlock, List.nodup_iff_injective_getElem]
  constructor
  · intro h x y hxy
    simp only [List.getElem_map, List.getElem_range] at hxy
    exact Fin.ext (h _ (by simpa using x.2) _ (by simpa using y.2) hxy)
  · intro h x hx y hy hxy
    have := @h ⟨x, by simpa using hx⟩ ⟨y, by simpa using hy⟩ (by simpa using hxy)
    simpa using this

/-- Completion either applies a command's writes or records an error. -/
theorem State.complete_cases (s : State) (r : CmdResult) :
    (∃ t, r = .ok t ∧ s.complete r = t.succeed) ∨ (∃ e, r = .error e ∧ s.complete r = s.failWith e) := by
  cases r with
  | ok t => exact .inl ⟨t, rfl, rfl⟩
  | error e => exact .inr ⟨e, rfl, rfl⟩

/-- Every meaning is the completion of an outcome. -/
def outcome (i : Instr) (s : State) : CmdResult :=
  match i with
  | .nop => .ok s
  | .gfMul => .ok (s.setResult (gmul s.opa s.opb))
  | .gfInv => .ok (s.setResult (gfinvTable s.opa))
  | .gfMul2 => .ok (s.setResult (mulTable 0x02 s.opa))
  | .gfMul3 => .ok (s.setResult (mulTable 0x03 s.opa))
  | .gfMul9 => .ok (s.setResult (mulTable 0x09 s.opa))
  | .gfMul11 => .ok (s.setResult (mulTable 0x0B s.opa))
  | .gfMul13 => .ok (s.setResult (mulTable 0x0D s.opa))
  | .gfMul14 => .ok (s.setResult (mulTable 0x0E s.opa))
  | .genSbox => .ok (s.setSbox (genTable s.matrix s.const))
  | .genInvSbox => .ok (s.setIsbox (swap s.sbox))
  | .genFwdFromInv => .ok (s.setSbox (swap s.isbox))
  | .keyExpand => keyExpand s
  | .encBlock => blkThrough s s.sbox (cipher s.blk s.expkey s.sbox)
  | .decBlock => blkThrough s s.isbox (invCipher s.blk s.expkey s.isbox)
  | .cbcEnc => cbcEnc s
  | .cbcDec => cbcDec s
  | .subBytes => blkThrough s s.sbox (substitute s.blk s.sbox)
  | .shiftRows => .ok (s.setBlk (shiftRows s.blk))
  | .mixColumns => .ok (s.setBlk (mixColumns s.blk))
  | .addRoundKey => addRoundKeyByOpa s
  | .invSubBytes => blkThrough s s.isbox (substitute s.blk s.isbox)
  | .invShiftRows => .ok (s.setBlk (invShiftRows s.blk))
  | .invMixColumns => .ok (s.setBlk (invMixColumns s.blk))

/-- What a command does: it completes its outcome. -/
theorem exec_eq (i : Instr) (s : State) : exec i s = .next (s.complete (outcome i s)) := by
  cases i <;> rfl

/-- A block command through a table succeeds exactly when the table is bijective. -/
theorem blkThrough_eq (s : State) (table out : List Byte) :
    blkThrough s table out = if bijective table then .ok (s.storeBlock 0x0040 out) else .error .nonBijectiveSbox := rfl

/-- The check with the values already seen: the sequence has no repeat and shares no value with them. -/
theorem distinctFrom_iff (t : List Byte) (seen : Nat) :
    distinctFrom seen t = true ↔ t.Nodup ∧ ∀ v ∈ t, seen.testBit v.toNat = false := by
  induction t generalizing seen with
  | nil => simp [distinctFrom]
  | cons v vs ih =>
    have bit (w : Byte) : (seen ||| 1 <<< v.toNat).testBit w.toNat = (seen.testBit w.toNat || decide (v = w)) := by
      rw [Nat.testBit_or, Nat.shiftLeft_eq, Nat.one_mul, Nat.testBit_two_pow]
      simp [BitVec.toNat_eq]
    simp only [distinctFrom, Bool.and_eq_true, Bool.not_eq_true', ih, bit, Bool.or_eq_false_iff,
      decide_eq_false_iff_not, List.nodup_cons, List.forall_mem_cons]
    constructor
    · rintro ⟨h, hn, hv⟩
      exact ⟨⟨fun hm => (hv v hm).2 rfl, hn⟩, h, fun w hw => (hv w hw).1⟩
    · rintro ⟨⟨hm, hn⟩, h, hv⟩
      exact ⟨h, hn, fun w hw => ⟨hv w hw, fun he => hm (he ▸ hw)⟩⟩

/-- The check of R146 is that the sequence has no repeat. -/
theorem bijective_iff_nodup (t : List Byte) : bijective t = true ↔ t.Nodup := by
  rw [bijective, distinctFrom_iff]
  simp

/-- Where no item lies at an address, none is found. -/
theorem itemAt_none_iff {b a : Nat} : itemAt b a = none ↔ ∀ it ∈ Item.all, it.holds b a = false := by
  simp [itemAt, List.find?_eq_none]

/-- An item that is found holds the address. -/
theorem holds_of_itemAt {b a : Nat} {it : Item} (h : itemAt b a = some it) :
    it.base ≤ a ∧ a < it.base + it.size b := by
  have := List.find?_some h
  simpa [Item.holds] using this

/-- The address map of R22 with the addresses as numbers. -/
theorem itemAt_eq (b a : Nat) : itemAt b a =
    if a = 0x0000 then some .cmd else if a = 0x0001 then some .status else if a = 0x0002 then some .errcode
    else if a = 0x0003 then some .opa else if a = 0x0004 then some .opb else if a = 0x0005 then some .result
    else if a < 0x0008 then some .len else if a < 0x000A then some .outlen else if a < 0x000C then some .bufsz
    else if a < 0x0010 then none else if a < 0x0018 then some .matrix else if a = 0x0018 then some .const
    else if a < 0x0020 then none else if a < 0x0030 then some .key else if a < 0x0040 then some .iv
    else if a < 0x0050 then some .blk else if a < 0x0100 then none else if a < 0x0200 then some .sbox
    else if a < 0x0300 then some .isbox else if a < 0x03B0 then some .expkey else if a < 0x0400 then none
    else if a < 0x0500 then some .gfinv else if a < 0x0600 then some .mul2 else if a < 0x0700 then some .mul3
    else if a < 0x0800 then some .mul9 else if a < 0x0900 then some .mul11 else if a < 0x0A00 then some .mul13
    else if a < 0x0B00 then some .mul14 else if a < 0x4000 then none
    else if a < 0x4000 + b then some .din else if 0x8000 ≤ a ∧ a < 0x8000 + b then some .dout else none := by
  have hit (it : Item) (rest : List Item) (h : it.base ≤ a ∧ a < it.base + it.size b) :
      List.find? (fun x : Item => x.holds b a) (it :: rest) = some it :=
    List.find?_cons_of_pos (by simpa [Item.holds] using h)
  have miss (it : Item) (rest : List Item) (h : ¬ (it.base ≤ a ∧ a < it.base + it.size b)) :
      List.find? (fun x : Item => x.holds b a) (it :: rest) = List.find? (fun x : Item => x.holds b a) rest :=
    List.find?_cons_of_neg (by simpa [Item.holds] using h)
  have none_of (rest : List Item) (h : ∀ it ∈ rest, ¬ (it.base ≤ a ∧ a < it.base + it.size b)) :
      List.find? (fun x : Item => x.holds b a) rest = none :=
    List.find?_eq_none.mpr fun it hit => by simpa [Item.holds] using h it hit
  unfold itemAt Item.all
  by_cases h1 : a = 0x0000
  · rw [if_pos h1]; exact hit .cmd _ (by simp only [Item.base, Item.size]; omega)
  rw [if_neg h1, miss .cmd _ (by simp only [Item.base, Item.size]; omega)]
  by_cases h2 : a = 0x0001
  · rw [if_pos h2]; exact hit .status _ (by simp only [Item.base, Item.size]; omega)
  rw [if_neg h2, miss .status _ (by simp only [Item.base, Item.size]; omega)]
  by_cases h3 : a = 0x0002
  · rw [if_pos h3]; exact hit .errcode _ (by simp only [Item.base, Item.size]; omega)
  rw [if_neg h3, miss .errcode _ (by simp only [Item.base, Item.size]; omega)]
  by_cases h4 : a = 0x0003
  · rw [if_pos h4]; exact hit .opa _ (by simp only [Item.base, Item.size]; omega)
  rw [if_neg h4, miss .opa _ (by simp only [Item.base, Item.size]; omega)]
  by_cases h5 : a = 0x0004
  · rw [if_pos h5]; exact hit .opb _ (by simp only [Item.base, Item.size]; omega)
  rw [if_neg h5, miss .opb _ (by simp only [Item.base, Item.size]; omega)]
  by_cases h6 : a = 0x0005
  · rw [if_pos h6]; exact hit .result _ (by simp only [Item.base, Item.size]; omega)
  rw [if_neg h6, miss .result _ (by simp only [Item.base, Item.size]; omega)]
  by_cases h7 : a < 0x0008
  · rw [if_pos h7]; exact hit .len _ (by simp only [Item.base, Item.size]; omega)
  rw [if_neg h7, miss .len _ (by simp only [Item.base, Item.size]; omega)]
  by_cases h8 : a < 0x000A
  · rw [if_pos h8]; exact hit .outlen _ (by simp only [Item.base, Item.size]; omega)
  rw [if_neg h8, miss .outlen _ (by simp only [Item.base, Item.size]; omega)]
  by_cases h9 : a < 0x000C
  · rw [if_pos h9]; exact hit .bufsz _ (by simp only [Item.base, Item.size]; omega)
  rw [if_neg h9, miss .bufsz _ (by simp only [Item.base, Item.size]; omega)]
  by_cases h10 : a < 0x0010
  · rw [if_pos h10]; exact none_of _ (by simp [Item.base, Item.size]; omega)
  rw [if_neg h10]
  by_cases h11 : a < 0x0018
  · rw [if_pos h11]; exact hit .matrix _ (by simp only [Item.base, Item.size]; omega)
  rw [if_neg h11, miss .matrix _ (by simp only [Item.base, Item.size]; omega)]
  by_cases h12 : a = 0x0018
  · rw [if_pos h12]; exact hit .const _ (by simp only [Item.base, Item.size]; omega)
  rw [if_neg h12, miss .const _ (by simp only [Item.base, Item.size]; omega)]
  by_cases h13 : a < 0x0020
  · rw [if_pos h13]; exact none_of _ (by simp [Item.base, Item.size]; omega)
  rw [if_neg h13]
  by_cases h14 : a < 0x0030
  · rw [if_pos h14]; exact hit .key _ (by simp only [Item.base, Item.size]; omega)
  rw [if_neg h14, miss .key _ (by simp only [Item.base, Item.size]; omega)]
  by_cases h15 : a < 0x0040
  · rw [if_pos h15]; exact hit .iv _ (by simp only [Item.base, Item.size]; omega)
  rw [if_neg h15, miss .iv _ (by simp only [Item.base, Item.size]; omega)]
  by_cases h16 : a < 0x0050
  · rw [if_pos h16]; exact hit .blk _ (by simp only [Item.base, Item.size]; omega)
  rw [if_neg h16, miss .blk _ (by simp only [Item.base, Item.size]; omega)]
  by_cases h17 : a < 0x0100
  · rw [if_pos h17]; exact none_of _ (by simp [Item.base, Item.size]; omega)
  rw [if_neg h17]
  by_cases h18 : a < 0x0200
  · rw [if_pos h18]; exact hit .sbox _ (by simp only [Item.base, Item.size]; omega)
  rw [if_neg h18, miss .sbox _ (by simp only [Item.base, Item.size]; omega)]
  by_cases h19 : a < 0x0300
  · rw [if_pos h19]; exact hit .isbox _ (by simp only [Item.base, Item.size]; omega)
  rw [if_neg h19, miss .isbox _ (by simp only [Item.base, Item.size]; omega)]
  by_cases h20 : a < 0x03B0
  · rw [if_pos h20]; exact hit .expkey _ (by simp only [Item.base, Item.size]; omega)
  rw [if_neg h20, miss .expkey _ (by simp only [Item.base, Item.size]; omega)]
  by_cases h21 : a < 0x0400
  · rw [if_pos h21]; exact none_of _ (by simp [Item.base, Item.size]; omega)
  rw [if_neg h21]
  by_cases h22 : a < 0x0500
  · rw [if_pos h22]; exact hit .gfinv _ (by simp only [Item.base, Item.size]; omega)
  rw [if_neg h22, miss .gfinv _ (by simp only [Item.base, Item.size]; omega)]
  by_cases h23 : a < 0x0600
  · rw [if_pos h23]; exact hit .mul2 _ (by simp only [Item.base, Item.size]; omega)
  rw [if_neg h23, miss .mul2 _ (by simp only [Item.base, Item.size]; omega)]
  by_cases h24 : a < 0x0700
  · rw [if_pos h24]; exact hit .mul3 _ (by simp only [Item.base, Item.size]; omega)
  rw [if_neg h24, miss .mul3 _ (by simp only [Item.base, Item.size]; omega)]
  by_cases h25 : a < 0x0800
  · rw [if_pos h25]; exact hit .mul9 _ (by simp only [Item.base, Item.size]; omega)
  rw [if_neg h25, miss .mul9 _ (by simp only [Item.base, Item.size]; omega)]
  by_cases h26 : a < 0x0900
  · rw [if_pos h26]; exact hit .mul11 _ (by simp only [Item.base, Item.size]; omega)
  rw [if_neg h26, miss .mul11 _ (by simp only [Item.base, Item.size]; omega)]
  by_cases h27 : a < 0x0A00
  · rw [if_pos h27]; exact hit .mul13 _ (by simp only [Item.base, Item.size]; omega)
  rw [if_neg h27, miss .mul13 _ (by simp only [Item.base, Item.size]; omega)]
  by_cases h28 : a < 0x0B00
  · rw [if_pos h28]; exact hit .mul14 _ (by simp only [Item.base, Item.size]; omega)
  rw [if_neg h28, miss .mul14 _ (by simp only [Item.base, Item.size]; omega)]
  by_cases hg : a < 0x4000
  · rw [if_pos hg]; exact none_of _ (by simp [Item.base, Item.size]; omega)
  rw [if_neg hg]
  by_cases hd : a < 0x4000 + b
  · rw [if_pos hd]; exact hit .din _ (by simp only [Item.base, Item.size]; omega)
  rw [if_neg hd, miss .din _ (by simp only [Item.base, Item.size]; omega)]
  by_cases ho : 0x8000 ≤ a ∧ a < 0x8000 + b
  · rw [if_pos ho]; exact hit .dout _ ho
  rw [if_neg ho, miss .dout _ ho, List.find?_nil]

/-- A write to an item the host may not write changes nothing. -/
theorem State.setItemByte_readOnly (s : State) (it : Item) (k : Nat) (v : Byte) (h : it.hostWritable = false) :
    s.setItemByte it k v = s := by
  cases it <;> first | rfl | exact absurd h.symm Bool.false_ne_true

/-- A write to a data store the host may write stores the byte at its address. -/
theorem State.setItemByte_store (s : State) (it : Item) (k : Nat) (v : Byte) (h : it.hostWritable = true)
    (hs : it.isStore = true) : s.setItemByte it k v = s.storeByte (it.base + k) v := by
  cases it <;> first | rfl | exact absurd h Bool.false_ne_true | exact absurd hs Bool.false_ne_true

end Sys2Proof.Machine
end

