-- ==== Sys2Proof/Laws/PerInstr.lean ====
section
/-! SUPPORT. The statements made per command: the byte a command is encoded as is one of the bytes the illegal ranges of
R95 leave over, and the opcode table lists it. -/

namespace Sys2Proof.Laws

/-- The command's byte is well-formed and R94's table has it in one row. -/
def OpcodeByte.Statement (i : Instr) : Prop :=
  Opcode.wf (encode i) = true ∧ (opcodeTable.map Prod.fst).count (encode i) = 1

theorem OpcodeByte.nop : OpcodeByte.Statement .nop := by unfold OpcodeByte.Statement; decide
theorem OpcodeByte.gfMul : OpcodeByte.Statement .gfMul := by unfold OpcodeByte.Statement; decide
theorem OpcodeByte.gfInv : OpcodeByte.Statement .gfInv := by unfold OpcodeByte.Statement; decide
theorem OpcodeByte.gfMul2 : OpcodeByte.Statement .gfMul2 := by unfold OpcodeByte.Statement; decide
theorem OpcodeByte.gfMul3 : OpcodeByte.Statement .gfMul3 := by unfold OpcodeByte.Statement; decide
theorem OpcodeByte.gfMul9 : OpcodeByte.Statement .gfMul9 := by unfold OpcodeByte.Statement; decide
theorem OpcodeByte.gfMul11 : OpcodeByte.Statement .gfMul11 := by unfold OpcodeByte.Statement; decide
theorem OpcodeByte.gfMul13 : OpcodeByte.Statement .gfMul13 := by unfold OpcodeByte.Statement; decide
theorem OpcodeByte.gfMul14 : OpcodeByte.Statement .gfMul14 := by unfold OpcodeByte.Statement; decide
theorem OpcodeByte.genSbox : OpcodeByte.Statement .genSbox := by unfold OpcodeByte.Statement; decide
theorem OpcodeByte.genInvSbox : OpcodeByte.Statement .genInvSbox := by unfold OpcodeByte.Statement; decide
theorem OpcodeByte.genFwdFromInv : OpcodeByte.Statement .genFwdFromInv := by unfold OpcodeByte.Statement; decide
theorem OpcodeByte.keyExpand : OpcodeByte.Statement .keyExpand := by unfold OpcodeByte.Statement; decide
theorem OpcodeByte.encBlock : OpcodeByte.Statement .encBlock := by unfold OpcodeByte.Statement; decide
theorem OpcodeByte.decBlock : OpcodeByte.Statement .decBlock := by unfold OpcodeByte.Statement; decide
theorem OpcodeByte.cbcEnc : OpcodeByte.Statement .cbcEnc := by unfold OpcodeByte.Statement; decide
theorem OpcodeByte.cbcDec : OpcodeByte.Statement .cbcDec := by unfold OpcodeByte.Statement; decide
theorem OpcodeByte.subBytes : OpcodeByte.Statement .subBytes := by unfold OpcodeByte.Statement; decide
theorem OpcodeByte.shiftRows : OpcodeByte.Statement .shiftRows := by unfold OpcodeByte.Statement; decide
theorem OpcodeByte.mixColumns : OpcodeByte.Statement .mixColumns := by unfold OpcodeByte.Statement; decide
theorem OpcodeByte.addRoundKey : OpcodeByte.Statement .addRoundKey := by unfold OpcodeByte.Statement; decide
theorem OpcodeByte.invSubBytes : OpcodeByte.Statement .invSubBytes := by unfold OpcodeByte.Statement; decide
theorem OpcodeByte.invShiftRows : OpcodeByte.Statement .invShiftRows := by unfold OpcodeByte.Statement; decide
theorem OpcodeByte.invMixColumns : OpcodeByte.Statement .invMixColumns := by unfold OpcodeByte.Statement; decide

end Sys2Proof.Laws
end

