-- ==== Sys2Proof/Laws/Step.lean ====
section
/-! SUPPORT. What a step can do, said once (the inversion lemma of step), and the kernel-evaluable placing of a command
byte. -/

namespace Sys2Proof.Machine

/-- The command unit's turn on a command in flight completes its outcome, or IllegalCommand. -/
theorem runCommand_cases (s : State) :
    (∃ i, decode s.lastCmd = .ok i ∧ runCommand s = .next (s.complete (outcome i s))) ∨
    ((∀ i, decode s.lastCmd ≠ .ok i) ∧ runCommand s = .next (s.failWith .illegalCommand)) := by
  unfold runCommand State.fetch
  cases h : decode s.lastCmd with
  | ok i => exact .inl ⟨i, rfl, exec_eq i s⟩
  | error e => exact .inr ⟨fun i hi => by simp at hi, rfl⟩

/-- Every step answers a next state, and it is one of seven: an idle turn, a completion, an illegal byte's completion,
a read, a write, or a reset. -/
theorem step_cases (s : State) : ∃ t, step s = .next t ∧
    ((∃ es, (s.schedule = [] ∧ es = [] ∨ s.schedule = .complete :: es) ∧
        ((s.busy = false ∧ t = s.setSchedule es) ∨
         (s.busy = true ∧ ∃ i, decode s.lastCmd = .ok i ∧
            t = (s.setSchedule es).complete (outcome i (s.setSchedule es))) ∨
         (s.busy = true ∧ (∀ i, decode s.lastCmd ≠ .ok i) ∧ t = (s.setSchedule es).failWith .illegalCommand))) ∨
     (∃ a es, s.schedule = .read a :: es ∧ t = (s.setSchedule es).busRead a.toNat) ∨
     (∃ a v es, s.schedule = .write a v :: es ∧ t = ((s.setSchedule es).busWrite a.toNat v).nextDraw) ∨
     (∃ es, s.schedule = .reset :: es ∧ t = (s.setSchedule es).hardReset)) := by
  have turn (u : State) (es : List Event) (hu : u = s.setSchedule es)
      (hes : s.schedule = [] ∧ es = [] ∨ s.schedule = .complete :: es) : ∃ t, unitTurn u = .next t ∧
      ∃ es, (s.schedule = [] ∧ es = [] ∨ s.schedule = .complete :: es) ∧
        ((s.busy = false ∧ t = s.setSchedule es) ∨
         (s.busy = true ∧ ∃ i, decode s.lastCmd = .ok i ∧
            t = (s.setSchedule es).complete (outcome i (s.setSchedule es))) ∨
         (s.busy = true ∧ (∀ i, decode s.lastCmd ≠ .ok i) ∧ t = (s.setSchedule es).failWith .illegalCommand)) := by
    subst hu
    unfold unitTurn
    cases hb : s.busy with
    | false => exact ⟨_, by simp [hb], es, hes, .inl ⟨rfl, rfl⟩⟩
    | true =>
      rw [if_pos (by simpa using hb)]
      rcases runCommand_cases (s.setSchedule es) with ⟨i, hi, hr⟩ | ⟨hn, hr⟩
      · exact ⟨_, hr, es, hes, .inr (.inl ⟨rfl, i, hi, rfl⟩)⟩
      · exact ⟨_, hr, es, hes, .inr (.inr ⟨rfl, hn, rfl⟩)⟩
  unfold step
  cases hs : s.schedule with
  | nil =>
    obtain ⟨t, ht, h⟩ := turn s [] (by simp [State.setSchedule, ← hs]) (.inl ⟨hs, rfl⟩)
    exact ⟨t, ht, .inl (by simpa [hs] using h)⟩
  | cons e es =>
    cases e with
    | read a => exact ⟨_, rfl, .inr (.inl ⟨a, es, rfl, rfl⟩)⟩
    | write a v => exact ⟨_, rfl, .inr (.inr (.inl ⟨a, v, es, rfl, rfl⟩))⟩
    | reset => exact ⟨_, rfl, .inr (.inr (.inr ⟨es, rfl, rfl⟩))⟩
    | complete =>
      obtain ⟨t, ht, h⟩ := turn _ es rfl (.inr hs)
      exact ⟨t, ht, .inl (by simpa [hs] using h)⟩

/-- The step on each kind of event, as an equation. -/
theorem step_read {s : State} {a : Addr} {es : List Event} (h : s.schedule = .read a :: es) :
    step s = .next ((s.setSchedule es).busRead a.toNat) := by
  rw [step, h]; rfl

theorem step_write {s : State} {a : Addr} {v : Byte} {es : List Event} (h : s.schedule = .write a v :: es) :
    step s = .next ((s.setSchedule es).busWrite a.toNat v).nextDraw := by
  rw [step, h]; rfl

theorem step_complete {s : State} {es : List Event} (h : s.schedule = .complete :: es) :
    step s = unitTurn (s.setSchedule es) := by
  rw [step, h]; rfl

theorem step_reset {s : State} {es : List Event} (h : s.schedule = .reset :: es) :
    step s = .next (s.setSchedule es).hardReset := by
  rw [step, h]; rfl

theorem step_nil {s : State} (h : s.schedule = []) : step s = unitTurn s := by
  rw [step, h]

/-- The command unit's turn while idle does nothing (R266). -/
theorem unitTurn_idle {s : State} (h : s.busy = false) : unitTurn s = .next s := by
  rw [unitTurn, h]; rfl

/-- The command unit's turn with a command in flight runs it. -/
theorem unitTurn_busy {s : State} (h : s.busy = true) : unitTurn s = runCommand s := by
  rw [unitTurn, h]; rfl

/-- A read and a write, by BUSY. -/
theorem busRead_idle {s : State} (h : s.busy = false) (a : Nat) : s.busRead a = s.answer (s.idleByte a) := by
  rw [State.busRead, h]; rfl

theorem busRead_busy {s : State} (h : s.busy = true) (a : Nat) :
    s.busRead a = (s.answer (s.busyByte a)).nextDraw := by
  rw [State.busRead, h]; rfl

theorem busWrite_busy {s : State} (h : s.busy = true) (a : Nat) (v : Byte) : s.busWrite a v = s.dropWrite := by
  rw [State.busWrite, h]; rfl

theorem busWrite_idle {s : State} (h : s.busy = false) (a : Nat) (v : Byte) : s.busWrite a v =
    match itemAt s.capacity a with
    | some it => s.setItemByte it (a - it.base) v
    | none => s := by
  rw [State.busWrite, h]; rfl

/-- A placed command byte is what the next step decodes. -/
theorem State.withFetchWord_lastCmd (s : State) (nbits w : Nat) :
    (s.withFetchWord nbits w).lastCmd = BitVec.ofNat 8 (w % 2 ^ nbits) := by
  unfold State.withFetchWord
  split <;> rfl

end Sys2Proof.Machine
end

