-- ==== Sys2Proof/Laws/Tables.lean ====
section
/-! SUPPORT. The lengths of what the pure functions return, said once per function. -/

namespace Sys2Proof.Machine

@[simp] theorem genTable_length (m : List Byte) (c : Byte) : (genTable m c).length = 256 := by simp [genTable]

theorem genTable_getD (m : List Byte) (c : Byte) {x : Nat} (h : x < 256) :
    (genTable m c).getD x 0 = affine m c (gfinvTable (BitVec.ofNat 8 x)) := by
  simp [genTable, h]

/-- A pass of the swap over any indices keeps the table's length. -/
theorem swapPass_length (t : List Byte) (xs : List Nat) (r : List Byte) :
    (xs.foldl (fun r x => r.set (t.getD x 0).toNat (BitVec.ofNat 8 x)) r).length = r.length := by
  induction xs generalizing r with
  | nil => rfl
  | cons x xs ih => rw [List.foldl_cons, ih, List.length_set]

@[simp] theorem swap_length (t : List Byte) : (swap t).length = 256 := by
  rw [swap, swapPass_length, List.length_replicate]

@[simp] theorem substitute_length (b t : List Byte) : (substitute b t).length = b.length := by simp [substitute]

@[simp] theorem shiftRows_length (b : List Byte) : (shiftRows b).length = 16 := by simp [shiftRows]

@[simp] theorem invShiftRows_length (b : List Byte) : (invShiftRows b).length = 16 := by simp [invShiftRows]

@[simp] theorem mixColumns_length (b : List Byte) : (mixColumns b).length = 16 := by
  simp [mixColumns, onColumns, mixColumn, List.range_succ]

@[simp] theorem invMixColumns_length (b : List Byte) : (invMixColumns b).length = 16 := by
  simp [invMixColumns, onColumns, invMixColumn, List.range_succ]

@[simp] theorem addRoundKey_length (b ek : List Byte) (r : Nat) : (addRoundKey b ek r).length = 16 := by
  simp [addRoundKey]

@[simp] theorem cipher_length (b ek t : List Byte) : (cipher b ek t).length = 16 := by simp [cipher]

@[simp] theorem invCipher_length (b ek it : List Byte) : (invCipher b ek it).length = 16 := by simp [invCipher]

@[simp] theorem xorBytes_length (a b : List Byte) : (xorBytes a b).length = min a.length b.length := by
  simp [xorBytes]

@[simp] theorem blocksOf_length (m : List Byte) : (blocksOf m).length = m.length / 16 := by simp [blocksOf]

@[simp] theorem cbcEncryptChain_length (ek t : List Byte) (prev : List Byte) (ps : List (List Byte)) :
    (cbcEncryptChain ek t prev ps).length = ps.length := by
  induction ps generalizing prev with
  | nil => rfl
  | cons p ps ih => simp [cbcEncryptChain, ih]

@[simp] theorem cbcDecryptChain_length (ek it : List Byte) (prev : List Byte) (cs : List (List Byte)) :
    (cbcDecryptChain ek it prev cs).length = cs.length := by
  induction cs generalizing prev with
  | nil => rfl
  | cons c cs ih => simp [cbcDecryptChain, ih]

end Sys2Proof.Machine
end

