-- ==== Sys2Proof/Machine/Script.lean ====
section
/-! DEFINITION. The host's command scripts (30_encoding.md R101, R102) as events of the schedule: the base statements, and
the pseudo-instructions with their exact expansions. A symbol of R22 stands for its base address (Item.base). The
script's control flow is the host's own and stands outside the engine (R101); how often `wait` reads STATUS is how long
the command stays in flight (R296), here an argument. -/

namespace Sys2Proof.Machine

/-- `SYM+n`: the base address of an item, and an offset (R101). -/
def Script.addr (it : Item) (n : Nat) : Addr := BitVec.ofNat 16 (it.base + n)

/-- `wr ADDR, V` (R101). -/
def Script.wr (a : Addr) (v : Byte) : List Event := [.write a v]

/-- `rd ADDR` (R101). -/
def Script.rd (a : Addr) : List Event := [.read a]

/-- `cmd NAME`: `wr 0x0000, OPC(NAME)` (R102). -/
def Script.cmd (i : Instr) : List Event := Script.wr 0x0000 (encode i)

/-- `wait`: reads of STATUS until one returns BUSY = 0 (R102). The command stays in flight for `n` of them; then the
command unit moves, and the last read finds the engine idle. -/
def Script.wait (n : Nat) : List Event :=
  List.replicate n (.read (Script.addr .status 0)) ++ [.complete] ++ Script.rd (Script.addr .status 0)

/-- `run NAME`: `cmd NAME; wait` (R102). -/
def Script.run (i : Instr) (n : Nat) : List Event := Script.cmd i ++ Script.wait n

/-- `wrn BASE, b0 b1 ... b(n-1)`: one write per byte in ascending order (R102). -/
def Script.wrn (base : Addr) : List Byte → List Event
  | [] => []
  | v :: vs => Script.wr base v ++ Script.wrn (base + 1) vs

/-- `rdn BASE, n`: one read per byte in ascending order (R102). -/
def Script.rdn (base : Addr) : Nat → List Event
  | 0 => []
  | n + 1 => Script.rd base ++ Script.rdn (base + 1) n

/-- `wr16 ADDR, V`: the low byte, then the high byte (R102). -/
def Script.wr16 (a : Addr) (v : BitVec 16) : List Event :=
  Script.wr a (v.setWidth 8) ++ Script.wr (a + 1) ((v >>> 8).setWidth 8)

/-- `rd16 ADDR`: the low byte, then the high byte (R102). -/
def Script.rd16 (a : Addr) : List Event := Script.rd a ++ Script.rd (a + 1)

end Sys2Proof.Machine
end

