-- ==== Sys2Proof/Tests/Slice0.lean ====
section
/-! SUPPORT. The model's own tests. Expected values are the spec's: the corner cases of the commands' rules and the
vectors of 95_test_vectors.md, named at each test. After them, one witness per statement with hypotheses: a concrete
state and operands that meet all of them, at the boundaries of its clauses. -/

namespace Sys2Proof.Tests

open Sys2Proof.Machine Sys2Proof.Safety

/-! ## Helpers -/

/-- The bytes of a hex string, written as a number: the first byte is the most significant. -/
def bytesOf (n v : Nat) : List Byte := (List.range n).map fun k => BitVec.ofNat 8 (v / 256 ^ (n - 1 - k))

/-- Memory cells holding a byte sequence at a base address. -/
def cells (base : Nat) (vs : List Byte) : List Host.Cell := List.zip ((List.range vs.length).map (base + ·)) vs

/-- The state a command leaves, none where it does not answer a next state. -/
def after (i : Instr) (s : State) : Option State :=
  match exec i s with
  | .next t => some t
  | .fault _ => none
  | .refused _ => none

/-- The state a step leaves, none where it does not answer a next state. -/
def stepped (s : State) : Option State :=
  match step s with
  | .next t => some t
  | .fault _ => none
  | .refused _ => none

/-- The 16 bytes of BLK after a command. -/
def blkAfter (i : Instr) (s : State) : Option (List Byte) := (after i s).map State.blk

/-- An idle engine with a schedule. -/
def idle (es : List Event) : State := { State.reset with schedule := es }

/-- An engine with a command in flight and a schedule. -/
def flying (v : Byte) (es : List Event) : State := { State.reset with lastCmd := v, busy := true, schedule := es }

/-- An idle engine with OPA and OPB. -/
def operands (a b : Byte) : State := { State.reset with opa := a, opb := b }

/-- An idle engine with a memory. -/
def holding (m : List Host.Cell) : State := { State.reset with mem := m }

/-- An idle engine with BLK, from a hex number. -/
def block (v : Nat) : State := holding (cells 0x0040 (bytesOf 16 v))

/-- T-SBOX-AES (95_test_vectors.md). -/
def aesSbox : List Byte :=
  bytesOf 16 0x637C777BF26B6FC53001672BFED7AB76 ++ bytesOf 16 0xCA82C97DFA5947F0ADD4A2AF9CA472C0 ++
  bytesOf 16 0xB7FD9326363FF7CC34A5E5F171D83115 ++ bytesOf 16 0x04C723C31896059A071280E2EB27B275 ++
  bytesOf 16 0x09832C1A1B6E5AA0523BD6B329E32F84 ++ bytesOf 16 0x53D100ED20FCB15B6ACBBE394A4C58CF ++
  bytesOf 16 0xD0EFAAFB434D338545F9027F503C9FA8 ++ bytesOf 16 0x51A3408F929D38F5BCB6DA2110FFF3D2 ++
  bytesOf 16 0xCD0C13EC5F974417C4A77E3D645D1973 ++ bytesOf 16 0x60814FDC222A908846EEB814DE5E0BDB ++
  bytesOf 16 0xE0323A0A4906245CC2D3AC629195E479 ++ bytesOf 16 0xE7C8376D8DD54EA96C56F4EA657AAE08 ++
  bytesOf 16 0xBA78252E1CA6B4C6E8DD741F4BBD8B8A ++ bytesOf 16 0x703EB5664803F60E613557B986C11D9E ++
  bytesOf 16 0xE1F8981169D98E949B1E87E9CE5528DF ++ bytesOf 16 0x8CA1890DBFE6426841992D0FB054BB16

/-- T-ISBOX-AES (95_test_vectors.md). -/
def aesIsbox : List Byte :=
  bytesOf 16 0x52096AD53036A538BF40A39E81F3D7FB ++ bytesOf 16 0x7CE339829B2FFF87348E4344C4DEE9CB ++
  bytesOf 16 0x547B9432A6C2233DEE4C950B42FAC34E ++ bytesOf 16 0x082EA16628D924B2765BA2496D8BD125 ++
  bytesOf 16 0x72F8F66486689816D4A45CCC5D65B692 ++ bytesOf 16 0x6C704850FDEDB9DA5E154657A78D9D84 ++
  bytesOf 16 0x90D8AB008CBCD30AF7E45805B8B34506 ++ bytesOf 16 0xD02C1E8FCA3F0F02C1AFBD0301138A6B ++
  bytesOf 16 0x3A9111414F67DCEA97F2CFCEF0B4E673 ++ bytesOf 16 0x96AC7422E7AD3585E2F937E81C75DF6E ++
  bytesOf 16 0x47F11A711D29C5896FB7620EAA18BE1B ++ bytesOf 16 0xFC563E4BC6D279209ADBC0FE78CD5AF4 ++
  bytesOf 16 0x1FDDA8338807C731B11210592780EC5F ++ bytesOf 16 0x60517FA919B54A0D2DE57A9F93C99CEF ++
  bytesOf 16 0xA0E03B4DAE2AF5B0C8EBBB3C83539961 ++ bytesOf 16 0x172B047EBA77D626E169146355210C7D

/-- Table KX-2 (95_test_vectors.md): the expanded key of 000102..0f with the AES S-box. -/
def kx2 : List Byte :=
  bytesOf 16 0x000102030405060708090a0b0c0d0e0f ++ bytesOf 16 0xd6aa74fdd2af72fadaa678f1d6ab76fe ++
  bytesOf 16 0xb692cf0b643dbdf1be9bc5006830b3fe ++ bytesOf 16 0xb6ff744ed2c2c9bf6c590cbf0469bf41 ++
  bytesOf 16 0x47f7f7bc95353e03f96c32bcfd058dfd ++ bytesOf 16 0x3caaa3e8a99f9deb50f3af57adf622aa ++
  bytesOf 16 0x5e390f7df7a69296a7553dc10aa31f6b ++ bytesOf 16 0x14f9701ae35fe28c440adf4d4ea9c026 ++
  bytesOf 16 0x47438735a41c65b9e016baf4aebf7ad2 ++ bytesOf 16 0x549932d1f08557681093ed9cbe2c974e ++
  bytesOf 16 0x13111d7fe3944a17f307a78b4d2b30c5

/-- AES_M (41_sbox.md R143). -/
def aesMatrix : List Byte := bytesOf 8 0xf1e3c78f1f3e7cf8

/-! ## Well-formedness: an ill-formed term for each check -/

/-- R95: the first and the last byte of each illegal range is refused. -/
theorem test_opcode_wf_refuses :
    (([0x09, 0x0F, 0x13, 0x1F, 0x23, 0x2F, 0x32, 0x3F, 0x47, 0x4F, 0x50, 0xFF] : List Byte).map Opcode.wf).all
      (· == false) = true := by decide

/-- R94: the bytes next to those ranges are accepted. -/
theorem test_opcode_wf_accepts :
    (([0x00, 0x08, 0x10, 0x12, 0x20, 0x22, 0x30, 0x31, 0x40, 0x46] : List Byte).map Opcode.wf).all id = true := by
  decide

/-- R6: below 32, above 16384, and not a multiple of 16 are refused; the ends of the range and the default are not. -/
theorem test_bufbytes_wf :
    BufBytes.wf 16 = false ∧ BufBytes.wf 16400 = false ∧ BufBytes.wf 33 = false ∧
    BufBytes.wf 32 = true ∧ BufBytes.wf 4096 = true ∧ BufBytes.wf 16384 = true := by decide

/-! ## Decoding: every command's byte, family bits 7:4 and function bits 3:0 written out from R94 -/

theorem test_decode_family0 :
    decode 0b0000_0000 = .ok .nop ∧ decode 0b0000_0001 = .ok .gfMul ∧ decode 0b0000_0010 = .ok .gfInv ∧
    decode 0b0000_0011 = .ok .gfMul2 ∧ decode 0b0000_0100 = .ok .gfMul3 ∧ decode 0b0000_0101 = .ok .gfMul9 ∧
    decode 0b0000_0110 = .ok .gfMul11 ∧ decode 0b0000_0111 = .ok .gfMul13 ∧ decode 0b0000_1000 = .ok .gfMul14 := by
  decide

theorem test_decode_family1 :
    decode 0b0001_0000 = .ok .genSbox ∧ decode 0b0001_0001 = .ok .genInvSbox ∧
    decode 0b0001_0010 = .ok .genFwdFromInv := by decide

theorem test_decode_family2 :
    decode 0b0010_0000 = .ok .keyExpand ∧ decode 0b0010_0001 = .ok .encBlock ∧ decode 0b0010_0010 = .ok .decBlock := by
  decide

theorem test_decode_family3 : decode 0b0011_0000 = .ok .cbcEnc ∧ decode 0b0011_0001 = .ok .cbcDec := by decide

theorem test_decode_family4 :
    decode 0b0100_0000 = .ok .subBytes ∧ decode 0b0100_0001 = .ok .shiftRows ∧ decode 0b0100_0010 = .ok .mixColumns ∧
    decode 0b0100_0011 = .ok .addRoundKey ∧ decode 0b0100_0100 = .ok .invSubBytes ∧
    decode 0b0100_0101 = .ok .invShiftRows ∧ decode 0b0100_0110 = .ok .invMixColumns := by decide

/-- R95: a byte of no family, and one of a family with no such function, are rejected by name. -/
theorem test_decode_rejects :
    decode 0b0101_1010 = .error (.illegalCommand 0x5A) ∧ decode 0b0000_1001 = .error (.illegalCommand 0x09) := by decide

theorem test_decodeTableWord :
    decodeTableWord 8 0x31 = some .cbcDec ∧ decodeTableWord 8 0x08 = some .gfMul14 ∧ decodeTableWord 8 0x50 = none := by
  decide

/-- A placed command byte runs at the very next step, from reset and in front of other events. -/
theorem test_withFetchWord :
    (stepped ((operands 0x57 0x83).withFetchWord 8 0x01)).map (·.result) = some 0xC1 ∧
    (stepped ((idle [.read 0x0000]).withFetchWord 8 0x00)).map (·.schedule) = some [.read 0x0000] := by decide

/-! ## Family 0x0 (vectors of 95_test_vectors.md section 2.1) -/

/-- R120's example: STATUS 0x0E, run NOP, and only DONE is left. -/
theorem test_nop_clears :
    let s := { (idle [.write 0x0000 0x00, .complete]) with doneFlag := true, err := true, ovr := true, errCode := 0x04 }
    ((stepped s).bind stepped).map (fun t => (t.busy, t.doneFlag, t.err, t.ovr, t.errCode)) =
      some (false, true, false, false, 0x00) := by decide

theorem test_nop_keeps_result : (after .nop { operands 1 2 with result := 0x77 }).map (·.result) = some 0x77 := by decide

/-- GF-1, GF-6. -/
theorem test_gfMul :
    (after .gfMul (operands 0x57 0x83)).map (·.result) = some 0xC1 ∧
    (after .gfMul (operands 0x80 0x02)).map (·.result) = some 0x1B := by decide

/-- GF-7, GF-9. -/
theorem test_gfMul_reduces :
    (after .gfMul (operands 0xFF 0xFF)).map (·.result) = some 0x13 ∧
    (after .gfMul (operands 0x02 0x87)).map (·.result) = some 0x15 := by decide

/-- GF-10, GF-16: zero by convention, and 0xFF. -/
theorem test_gfInv :
    (after .gfInv (operands 0x00 0x11)).map (·.result) = some 0x00 ∧
    (after .gfInv (operands 0xFF 0x11)).map (·.result) = some 0x1C := by decide +kernel

/-- GF-14. -/
theorem test_gfInv_53 : (after .gfInv (operands 0x53 0x00)).map (·.result) = some 0xCA := by decide +kernel

/-- GF-19, GF-20. -/
theorem test_gfMul2 :
    (after .gfMul2 (operands 0x57 0x83)).map (·.result) = some 0xAE ∧
    (after .gfMul2 (operands 0x80 0x83)).map (·.result) = some 0x1B := by decide

/-- GF-24, GF-26. -/
theorem test_gfMul3 :
    (after .gfMul3 (operands 0x57 0x83)).map (·.result) = some 0xF9 ∧
    (after .gfMul3 (operands 0xFF 0x83)).map (·.result) = some 0x1A := by decide

/-- GF-29, GF-30. -/
theorem test_gfMul9 :
    (after .gfMul9 (operands 0x57 0x83)).map (·.result) = some 0xD9 ∧
    (after .gfMul9 (operands 0x80 0x83)).map (·.result) = some 0xEC := by decide

/-- GF-34, GF-36. -/
theorem test_gfMul11 :
    (after .gfMul11 (operands 0x57 0x83)).map (·.result) = some 0x77 ∧
    (after .gfMul11 (operands 0xFF 0x83)).map (·.result) = some 0xA3 := by decide

/-- GF-39, GF-40. -/
theorem test_gfMul13 :
    (after .gfMul13 (operands 0x57 0x83)).map (·.result) = some 0x9E ∧
    (after .gfMul13 (operands 0x80 0x83)).map (·.result) = some 0xDA := by decide

/-- GF-44, GF-46. -/
theorem test_gfMul14 :
    (after .gfMul14 (operands 0x57 0x83)).map (·.result) = some 0x67 ∧
    (after .gfMul14 (operands 0xFF 0x83)).map (·.result) = some 0x8D := by decide

/-! ## Family 0x1 (section 2.2) -/

/-- SB-7: the rotated matrix tells a row from its neighbour, and bit order from its reverse. -/
theorem test_genSbox_rot :
    (affine (bytesOf 8 0xe3c78f1f3e7cf8f1) 0x63 (ginv 0x00), affine (bytesOf 8 0xe3c78f1f3e7cf8f1) 0x63 (ginv 0x01),
      affine (bytesOf 8 0xe3c78f1f3e7cf8f1) 0x63 (ginv 0xFF)) = (0x63, 0xEC, 0xD9) := by decide +kernel

/-- SB-11: SBOX[x] = x except SBOX[1] = 0. -/
def oneCollision : List Byte := 0x00 :: 0x00 :: ((List.range 256).drop 2).map (BitVec.ofNat 8)

/-- SB-11: the swap of the one-collision table. -/
theorem test_swap_one_collision :
    swap oneCollision = 0x01 :: 0x00 :: ((List.range 256).drop 2).map (BitVec.ofNat 8) := by decide +kernel

/-- SB-11: it is bijective, though the table is not. -/
theorem test_bijective_one_collision :
    bijective oneCollision = false ∧
    bijective (0x01 :: 0x00 :: ((List.range 256).drop 2).map (BitVec.ofNat 8)) = true := by decide +kernel

/-- SB-10: the last index wins, and an entry never written holds 0x00. -/
theorem test_swap_last_wins :
    swap (List.replicate 256 0x5A) = (List.range 256).map fun y => if y = 0x5A then 0xFF else 0x00 := by decide +kernel

/-- SB-8. -/
theorem test_swap_aes : swap aesSbox = aesIsbox := by decide +kernel

/-- SB-9. -/
theorem test_swap_aes_back : swap aesIsbox = aesSbox := by decide +kernel

/-- An idle engine with the AES S-box in SBOX. -/
def withSbox : State := State.reset.storeBlock 0x0100 aesSbox

/-- An idle engine with the AES inverse S-box in ISBOX. -/
def withIsbox : State := State.reset.storeBlock 0x0200 aesIsbox

theorem aesSbox_length : aesSbox.length = 256 := by simp [aesSbox, bytesOf]

theorem aesIsbox_length : aesIsbox.length = 256 := by simp [aesIsbox, bytesOf]

theorem kx2_length : kx2.length = 176 := by simp [kx2, bytesOf]

theorem withSbox_sbox : withSbox.sbox = aesSbox := State.loadBlock_storeBlock_self _ _ _ aesSbox_length

theorem withIsbox_isbox : withIsbox.isbox = aesIsbox := State.loadBlock_storeBlock_self _ _ _ aesIsbox_length

/-- The table a state holds after a block store of it, through completion. -/
theorem stored_block (s : State) (base : Nat) (vs : List Byte) {n : Nat} (h : vs.length = n) :
    (s.storeBlock base vs).succeed.loadBlock base n = vs :=
  (State.loadBlock_congr (s := s.storeBlock base vs) rfl rfl base n).trans (State.loadBlock_storeBlock_self _ _ _ h)

/-- An engine with AES_M in MATRIX and 0x63 in CONST. -/
def withMatrix : State := holding (cells 0x0010 aesMatrix ++ [(0x0018, 0x63)])

/-- SB-1: three entries of the AES S-box through the command. -/
theorem test_genSbox :
    (after .genSbox withMatrix).map State.sbox = some (genTable aesMatrix 0x63) ∧
    (genTable aesMatrix 0x63).getD 0x00 0 = 0x63 ∧ (genTable aesMatrix 0x63).getD 0x01 0 = 0x7C ∧
    (genTable aesMatrix 0x63).getD 0xFF 0 = 0x16 := by
  refine ⟨?_, by decide +kernel, by decide +kernel, by decide +kernel⟩
  simp only [after, exec_eq, outcome, Option.map_some, show withMatrix.matrix = aesMatrix by decide +kernel,
    show withMatrix.const = 0x63 by decide +kernel]
  exact congrArg some (stored_block _ _ _ (genTable_length _ _))

/-- SB-8 through the command. -/
theorem test_genInvSbox : (after .genInvSbox withSbox).map State.isbox = some aesIsbox := by
  simp only [after, exec_eq, outcome, Option.map_some]
  exact congrArg some ((stored_block _ _ _ (swap_length _)).trans (by rw [withSbox_sbox, test_swap_aes]))

/-- SB-9 through the command. -/
theorem test_genFwdFromInv : (after .genFwdFromInv withIsbox).map State.sbox = some aesSbox := by
  simp only [after, exec_eq, outcome, Option.map_some]
  exact congrArg some ((stored_block _ _ _ (swap_length _)).trans (by rw [withIsbox_isbox, test_swap_aes_back]))

/-! ## Family 0x2 (sections 2.3 and 2.4) -/

/-- KX-2. -/
theorem test_keyExpansion : keyExpansion (bytesOf 16 0x000102030405060708090a0b0c0d0e0f) aesSbox = kx2 := by
  decide +kernel

/-- KX-6: with every entry 0x63 the command fails and writes nothing. -/
theorem test_keyExpand_fails :
    (after .keyExpand (holding (cells 0x0100 (List.replicate 256 0x63)))).map
      (fun t => (t.err, t.errCode, Memory.read t.mem 0x0300)) = some (true, 0x03, none) := by decide +kernel

/-- RF-1. -/
theorem test_cipher :
    cipher (bytesOf 16 0x00112233445566778899aabbccddeeff) kx2 aesSbox =
      bytesOf 16 0x69c4e0d86a7b0430d8cdb78070b4c55a := by decide +kernel

/-- RF-2. -/
theorem test_invCipher :
    invCipher (bytesOf 16 0x69c4e0d86a7b0430d8cdb78070b4c55a) kx2 aesIsbox =
      bytesOf 16 0x00112233445566778899aabbccddeeff := by decide +kernel

/-- An idle engine with the AES tables, KX-2 in EXPKEY and a block in BLK. -/
def cipherState (b : Nat) : State :=
  (((State.reset.storeBlock 0x0100 aesSbox).storeBlock 0x0200 aesIsbox).storeBlock 0x0300 kx2).storeBlock 0x0040
    (bytesOf 16 b)

theorem bytesOf_length (n v : Nat) : (bytesOf n v).length = n := by simp [bytesOf]

theorem cipherState_blk (b : Nat) : (cipherState b).blk = bytesOf 16 b :=
  State.loadBlock_storeBlock_self _ _ _ (bytesOf_length 16 b)

theorem cipherState_expkey (b : Nat) : (cipherState b).expkey = kx2 :=
  (State.loadBlock_storeBlock_other _ _ (.inr (by simp [bytesOf_length, Item.base]))).trans
    (State.loadBlock_storeBlock_self _ _ _ kx2_length)

theorem cipherState_isbox (b : Nat) : (cipherState b).isbox = aesIsbox :=
  (State.loadBlock_storeBlock_other _ _ (.inr (by simp [bytesOf_length, Item.base]))).trans
    ((State.loadBlock_storeBlock_other _ _ (.inl (by simp [Item.base]))).trans
      (State.loadBlock_storeBlock_self _ _ _ aesIsbox_length))

theorem cipherState_sbox (b : Nat) : (cipherState b).sbox = aesSbox :=
  (State.loadBlock_storeBlock_other _ _ (.inr (by simp [bytesOf_length, Item.base]))).trans
    ((State.loadBlock_storeBlock_other _ _ (.inl (by simp [Item.base]))).trans
      ((State.loadBlock_storeBlock_other _ _ (.inl (by simp [Item.base]))).trans
        (State.loadBlock_storeBlock_self _ _ _ aesSbox_length)))

theorem aes_bijective : bijective aesSbox = true := by decide +kernel

theorem aes_inverse_bijective : bijective aesIsbox = true := by decide +kernel

/-- RF-1 through the command. -/
theorem test_encBlock :
    blkAfter .encBlock (cipherState 0x00112233445566778899aabbccddeeff) =
      some (bytesOf 16 0x69c4e0d86a7b0430d8cdb78070b4c55a) := by
  simp only [blkAfter, after, exec_eq, outcome, blkThrough, cipherState_sbox, cipherState_blk, cipherState_expkey,
    aes_bijective, if_true, test_cipher, Option.map_some]
  exact congrArg some (stored_block _ _ _ (bytesOf_length 16 _))

/-- RF-2 through the command. -/
theorem test_decBlock :
    blkAfter .decBlock (cipherState 0x69c4e0d86a7b0430d8cdb78070b4c55a) =
      some (bytesOf 16 0x00112233445566778899aabbccddeeff) := by
  simp only [blkAfter, after, exec_eq, outcome, blkThrough, cipherState_isbox, cipherState_blk, cipherState_expkey,
    aes_inverse_bijective, if_true, test_invCipher, Option.map_some]
  exact congrArg some (stored_block _ _ _ (bytesOf_length 16 _))

/-- RE-2, RE-3: a repeated value in SBOX stops ENC_BLOCK, in ISBOX it stops DEC_BLOCK, and BLK keeps its bytes. -/
theorem test_block_commands_fail :
    (after .encBlock (holding (cells 0x0040 (bytesOf 16 0x55) ++ cells 0x0100 (List.replicate 256 0x63)))).map
      (fun t => (t.errCode, t.load 0x004F)) = some (0x03, 0x55) ∧
    (after .decBlock (holding (cells 0x0040 (bytesOf 16 0x55) ++ cells 0x0200 (List.replicate 256 0x63)))).map
      (fun t => (t.errCode, t.load 0x004F)) = some (0x03, 0x55) := by decide +kernel

/-! ## Family 0x4 (section 2.4) -/

/-- RP-2 through the command. -/
theorem test_subBytes :
    blkAfter .subBytes (cipherState 0x193de3bea0f4e22b9ac68d2ae9f84808) =
      some (bytesOf 16 0xd42711aee0bf98f1b8b45de51e415230) := by
  have h : substitute (bytesOf 16 0x193de3bea0f4e22b9ac68d2ae9f84808) aesSbox =
      bytesOf 16 0xd42711aee0bf98f1b8b45de51e415230 := by decide +kernel
  simp only [blkAfter, after, exec_eq, outcome, blkThrough, cipherState_sbox, cipherState_blk, aes_bijective, if_true, h,
    Option.map_some]
  exact congrArg some (stored_block _ _ _ (bytesOf_length 16 _))

/-- RP-8 through the command. -/
theorem test_invSubBytes :
    blkAfter .invSubBytes (cipherState 0xd42711aee0bf98f1b8b45de51e415230) =
      some (bytesOf 16 0x193de3bea0f4e22b9ac68d2ae9f84808) := by
  have h : substitute (bytesOf 16 0xd42711aee0bf98f1b8b45de51e415230) aesIsbox =
      bytesOf 16 0x193de3bea0f4e22b9ac68d2ae9f84808 := by decide +kernel
  simp only [blkAfter, after, exec_eq, outcome, blkThrough, cipherState_isbox, cipherState_blk, aes_inverse_bijective,
    if_true, h, Option.map_some]
  exact congrArg some (stored_block _ _ _ (bytesOf_length 16 _))

/-- RE-2, RE-3: with a repeated value in the table both fail and BLK keeps its bytes. -/
theorem test_substitution_fails :
    (after .subBytes (holding (cells 0x0040 (bytesOf 16 0x55) ++ cells 0x0100 (List.replicate 256 0x63)))).map
      (fun t => (t.errCode, t.load 0x004F)) = some (0x03, 0x55) ∧
    (after .invSubBytes (holding (cells 0x0040 (bytesOf 16 0x55) ++ cells 0x0200 (List.replicate 256 0x63)))).map
      (fun t => (t.errCode, t.load 0x004F)) = some (0x03, 0x55) := by decide +kernel

/-- RP-9, RP-3. -/
theorem test_shiftRows :
    blkAfter .shiftRows (block 0x000102030405060708090a0b0c0d0e0f) =
      some (bytesOf 16 0x00050a0f04090e03080d02070c01060b) ∧
    blkAfter .shiftRows (block 0xd42711aee0bf98f1b8b45de51e415230) =
      some (bytesOf 16 0xd4bf5d30e0b452aeb84111f11e2798e5) := by decide +kernel

/-- RP-10, RP-7. -/
theorem test_invShiftRows :
    blkAfter .invShiftRows (block 0x000102030405060708090a0b0c0d0e0f) =
      some (bytesOf 16 0x000d0a0704010e0b0805020f0c090603) ∧
    blkAfter .invShiftRows (block 0xd4bf5d30e0b452aeb84111f11e2798e5) =
      some (bytesOf 16 0xd42711aee0bf98f1b8b45de51e415230) := by decide +kernel

/-- RP-4, RP-13. -/
theorem test_mixColumns :
    blkAfter .mixColumns (block 0xd4bf5d30e0b452aeb84111f11e2798e5) =
      some (bytesOf 16 0x046681e5e0cb199a48f8d37a2806264c) ∧
    blkAfter .mixColumns (block 0xdb135345f20a225c01010101c6c6c6c6) =
      some (bytesOf 16 0x8e4da1bc9fdc589d01010101c6c6c6c6) := by decide +kernel

/-- RP-6, RP-14. -/
theorem test_invMixColumns :
    blkAfter .invMixColumns (block 0x046681e5e0cb199a48f8d37a2806264c) =
      some (bytesOf 16 0xd4bf5d30e0b452aeb84111f11e2798e5) ∧
    blkAfter .invMixColumns (block 0x8e4da1bc9fdc589d01010101c6c6c6c6) =
      some (bytesOf 16 0xdb135345f20a225c01010101c6c6c6c6) := by decide +kernel

/-- C.1's round 0 and round 10 key additions: round key r is EXPKEY[16r..16r+16), from table KX-2, on a zero block. -/
theorem test_addRoundKey :
    blkAfter .addRoundKey { (holding (cells 0x0040 (bytesOf 16 0) ++ cells 0x0300 kx2)) with opa := 0x00 } =
      some (bytesOf 16 0x000102030405060708090a0b0c0d0e0f) ∧
    blkAfter .addRoundKey { (holding (cells 0x0040 (bytesOf 16 0) ++ cells 0x0300 kx2)) with opa := 0x0A } =
      some (bytesOf 16 0x13111d7fe3944a17f307a78b4d2b30c5) := by decide +kernel

/-- RE-1, at its three values. -/
theorem test_addRoundKey_fails :
    (after .addRoundKey { block 0x55 with opa := 0x0B }).map (fun t => (t.errCode, t.load 0x004F)) = some (0x06, 0x55) ∧
    (after .addRoundKey { block 0x55 with opa := 0x10 }).map (·.errCode) = some 0x06 ∧
    (after .addRoundKey { block 0x55 with opa := 0xFF }).map (·.errCode) = some 0x06 := by decide +kernel

/-! ## Family 0x3 (section 2.5) -/

/-- CBC-E17: two blocks, the second of one data byte and fifteen pad bytes. -/
theorem test_cbc_encrypt :
    cbcEncryptBlocks (pad (bytesOf 17 0x000102030405060708090a0b0c0d0e0f10)) kx2 aesSbox (List.replicate 16 0x00) =
      bytesOf 16 0x0a940bb5416ef045f1c39458c653ea5a ++ bytesOf 16 0xf9c4f947937a24c2716861f9a987e054 := by
  decide +kernel

/-- CBC-D10: a whole block of 0x10, which unpads to nothing. -/
theorem test_cbc_decrypt :
    cbcDecryptBlocks (bytesOf 16 0x954f64f2e4e86e9eee82d20216684899) kx2 aesIsbox (List.replicate 16 0x00) =
      List.replicate 16 0x10 ∧ unpadLen (List.replicate 16 0x10) = 0 := by decide +kernel

/-- R231's corner cases: `00 .. 00 05` and final bytes 0x00 and 0x11 strip nothing. -/
theorem test_unpad_lenient :
    unpadLen (bytesOf 16 0x05) = 16 ∧ unpadLen (bytesOf 16 0x00) = 16 ∧ unpadLen (bytesOf 16 0x11) = 16 ∧
    unpadLen (bytesOf 16 0x4101) = 15 ∧ unpadLen (bytesOf 16 0x0202) = 14 := by decide

/-- An engine with the KEY, zero IV and AES tables of section 2.5, LEN, and DIN. -/
def cbcState (len : Nat) (din : List Byte) : State :=
  (((((({ State.reset with len := BitVec.ofNat 16 len } : State).storeBlock 0x0100 aesSbox).storeBlock 0x0200
    aesIsbox).storeBlock 0x0020 (bytesOf 16 0x000102030405060708090a0b0c0d0e0f)).storeBlock 0x0030
    (bytesOf 16 0)).storeBlock 0x4000 din)

theorem cbcState_sbox (len : Nat) (din : List Byte) : (cbcState len din).sbox = aesSbox := by
  change State.loadBlock _ 0x0100 256 = _
  unfold cbcState
  rw [State.loadBlock_storeBlock_other _ _ (by omega), State.loadBlock_storeBlock_other _ _ (by simp [bytesOf_length]),
    State.loadBlock_storeBlock_other _ _ (by simp [bytesOf_length]), State.loadBlock_storeBlock_other _ _ (by omega),
    State.loadBlock_storeBlock_self _ _ _ aesSbox_length]

theorem cbcState_isbox (len : Nat) (din : List Byte) : (cbcState len din).isbox = aesIsbox := by
  change State.loadBlock _ 0x0200 256 = _
  unfold cbcState
  rw [State.loadBlock_storeBlock_other _ _ (by omega), State.loadBlock_storeBlock_other _ _ (by simp [bytesOf_length]),
    State.loadBlock_storeBlock_other _ _ (by simp [bytesOf_length]), State.loadBlock_storeBlock_self _ _ _ aesIsbox_length]

theorem cbcState_key (len : Nat) (din : List Byte) :
    (cbcState len din).key = bytesOf 16 0x000102030405060708090a0b0c0d0e0f := by
  change State.loadBlock _ 0x0020 16 = _
  unfold cbcState
  rw [State.loadBlock_storeBlock_other _ _ (by omega), State.loadBlock_storeBlock_other _ _ (by omega),
    State.loadBlock_storeBlock_self _ _ _ (bytesOf_length _ _)]

theorem cbcState_iv (len : Nat) (din : List Byte) : (cbcState len din).iv = bytesOf 16 0 := by
  change State.loadBlock _ 0x0030 16 = _
  unfold cbcState
  rw [State.loadBlock_storeBlock_other _ _ (by omega), State.loadBlock_storeBlock_self _ _ _ (bytesOf_length _ _)]

theorem cbcState_din (len : Nat) (din : List Byte) : (cbcState len din).din din.length = din :=
  State.loadBlock_storeBlock_self _ _ _ rfl

theorem cbcState_len (len : Nat) (din : List Byte) : (cbcState len din).len = BitVec.ofNat 16 len := rfl

theorem cbcState_bufBytes (len : Nat) (din : List Byte) : (cbcState len din).bufBytes = 4096#16 := rfl

/-- What is read back after a CBC command's writes. -/
theorem cbc_written (s : State) (ek c : List Byte) (n k : Nat) (hek : ek.length = 176) (hc : c.length = n) :
    (((s.storeBlock 0x0300 ek).storeBlock 0x8000 c).setOutLen k).succeed.dout n = c ∧
    (((s.storeBlock 0x0300 ek).storeBlock 0x8000 c).setOutLen k).succeed.expkey = ek := by
  constructor
  · exact (State.loadBlock_congr (s := (s.storeBlock 0x0300 ek).storeBlock 0x8000 c) rfl rfl 0x8000 n).trans
      (State.loadBlock_storeBlock_self _ _ _ hc)
  · exact (State.loadBlock_congr (s := (s.storeBlock 0x0300 ek).storeBlock 0x8000 c) rfl rfl 0x0300 176).trans
      ((State.loadBlock_storeBlock_other _ _ (by omega)).trans (State.loadBlock_storeBlock_self _ _ _ hek))

/-- The plaintext of CBC-E17. -/
def e17Plain : List Byte := bytesOf 17 0x000102030405060708090a0b0c0d0e0f10

/-- The ciphertext of CBC-E17. -/
def e17Cipher : List Byte :=
  bytesOf 16 0x0a940bb5416ef045f1c39458c653ea5a ++ bytesOf 16 0xf9c4f947937a24c2716861f9a987e054

theorem e17Cipher_length : e17Cipher.length = 32 := by simp [e17Cipher, bytesOf]

/-- CBC-E17 through the command: OUTLEN, DOUT and EXPKEY. -/
theorem test_cbcEnc :
    (after .cbcEnc (cbcState 17 e17Plain)).map (fun t => (t.outLen, t.dout 32, t.expkey)) =
      some (32, e17Cipher, kx2) := by
  have hd : (cbcState 17 e17Plain).din 17 = e17Plain := cbcState_din 17 e17Plain
  have hs : outcome .cbcEnc (cbcState 17 e17Plain) =
      .ok ((((cbcState 17 e17Plain).storeBlock 0x0300 kx2).storeBlock 0x8000 e17Cipher).setOutLen 32) := by
    simp only [outcome, cbcEnc, State.capacity, cbcState_len, cbcState_bufBytes, cbcState_sbox, aes_bijective, if_true]
    rw [if_neg (by decide)]
    simp only [cbcEncWrites, cbcState_len, cbcState_key, cbcState_iv, cbcState_sbox, test_keyExpansion]
    rw [show (BitVec.ofNat 16 17).toNat = 17 from rfl, hd, show bytesOf 16 0 = List.replicate 16 0x00 by decide,
      show cbcEncryptBlocks (pad e17Plain) kx2 aesSbox (List.replicate 16 0x00) = e17Cipher from test_cbc_encrypt,
      show (pad e17Plain).length = 32 by decide]
    rfl
  have hw := cbc_written (cbcState 17 e17Plain) kx2 e17Cipher 32 32 kx2_length e17Cipher_length
  simp only [after, exec_eq, hs, Option.map_some]
  exact congrArg some (Prod.ext rfl (Prod.ext hw.1 hw.2))

/-- CBC-X6 and CBC-X9: CapacityExceeded at LEN = BUF_BYTES, before the table check. -/
theorem test_cbcEnc_capacity :
    (after .cbcEnc { holding (cells 0x0100 (List.replicate 256 0x63)) with len := 4096 }).map
      (fun t => (t.err, t.errCode, t.outLen)) = some (true, 0x05, 0) ∧
    (after .cbcEnc { holding (cells 0x0100 (List.replicate 256 0x63)) with len := 4095 }).map
      (fun t => (t.err, t.errCode, t.outLen)) = some (true, 0x03, 0) := by decide +kernel

/-- What CBC_DEC writes in section 2.5's state for an input whose decryption is known. -/
theorem cbcDec_outcome (n : Nat) (din plain : List Byte) (hn : din.length = n) (hb : n ≤ 4096) (h16 : n % 16 = 0)
    (hd : cbcDecryptBlocks din kx2 aesIsbox (bytesOf 16 0) = plain) :
    outcome .cbcDec (cbcState n din) =
      .ok ((((cbcState n din).storeBlock 0x0300 kx2).storeBlock 0x8000 plain).setOutLen (unpadLen plain)) := by
  have hl : (cbcState n din).len.toNat = n := by
    rw [cbcState_len, BitVec.toNat_ofNat, Nat.mod_eq_of_lt (by omega)]
  have hdin : (cbcState n din).din n = din := by rw [← hn]; exact cbcState_din _ _
  have hcap : ¬ (cbcState n din).capacity < n := by
    rw [State.capacity, cbcState_bufBytes]
    exact Nat.not_lt.mpr hb
  simp only [outcome, cbcDec, hl]
  rw [if_neg (by omega), if_neg hcap, cbcState_isbox, if_pos aes_inverse_bijective]
  simp only [cbcDecWrites, hl, hdin, cbcState_key, cbcState_iv, cbcState_isbox, test_swap_aes_back, test_keyExpansion, hd]
  rfl

/-- The ciphertext of CBC-D10. -/
def d10Cipher : List Byte := bytesOf 16 0x954f64f2e4e86e9eee82d20216684899

/-- A block of padding only. -/
def d10Plain : List Byte := List.replicate 16 0x10

theorem d10_outcome : outcome .cbcDec (cbcState 16 d10Cipher) =
    .ok ((((cbcState 16 d10Cipher).storeBlock 0x0300 kx2).storeBlock 0x8000 d10Plain).setOutLen 0) := by
  have h := cbcDec_outcome 16 d10Cipher d10Plain (bytesOf_length _ _) (by decide) rfl
    (by rw [show bytesOf 16 0 = List.replicate 16 0x00 by decide]; exact test_cbc_decrypt.1)
  rwa [show unpadLen d10Plain = 0 by decide] at h

/-- CBC-D10 through the command: OUTLEN = 0, DOUT the whole decryption, EXPKEY = KX-2. -/
theorem test_cbcDec :
    (after .cbcDec (cbcState 16 d10Cipher)).map (fun t => (t.outLen, t.dout 16, t.expkey)) = some (0, d10Plain, kx2) := by
  have hw := cbc_written (cbcState 16 d10Cipher) kx2 d10Plain 16 0 kx2_length List.length_replicate
  simp only [after, exec_eq, d10_outcome, Option.map_some]
  exact congrArg some (Prod.ext rfl (Prod.ext hw.1 hw.2))

/-- CBC-D0: an empty input succeeds with OUTLEN = 0, no byte of DOUT and EXPKEY = KX-2. -/
theorem test_cbcDec_empty :
    outcome .cbcDec (cbcState 0 []) = .ok (((cbcState 0 []).storeBlock 0x0300 kx2).setOutLen 0) := by
  have h := cbcDec_outcome 0 [] [] rfl (by decide) rfl (by simp [cbcDecryptBlocks, blocksOf, cbcDecryptChain])
  rwa [show unpadLen [] = 0 from rfl, show ∀ s : State, s.storeBlock 0x8000 [] = s from fun _ => rfl] at h

/-- CBC-X1, CBC-X3, CBC-X4, CBC-X10. -/
theorem test_cbcDec_errors :
    (after .cbcDec { State.reset with len := 17 }).map (·.errCode) = some 0x01 ∧
    (after .cbcDec { holding (cells 0x0200 (List.replicate 256 0x63)) with len := 0x4001 }).map (·.errCode) = some 0x01 ∧
    (after .cbcDec { State.reset with len := 4112 }).map (·.errCode) = some 0x05 ∧
    (after .cbcDec { holding (cells 0x0200 (List.replicate 256 0x63)) with len := 32 }).map (·.errCode) = some 0x03 := by
  decide +kernel

/-! ## Lifecycle and bus (section 2.6) -/

/-- LC-1, with a byte of the range 0x50..0xFF: IllegalCommand, LASTCMD the byte, RESULT as it was. -/
theorem test_illegal_byte :
    ((stepped { (idle [.write 0x0000 0x5A, .complete]) with result := 0x77 }).bind stepped).map
      (fun t => (t.lastCmd, t.busy, t.doneFlag, t.err, t.errCode, t.result)) =
      some (0x5A, false, true, true, 0x04, 0x77) := by decide

/-- P4's last lines, outcome (a): a write while GF_MUL is in flight is dropped and sets OVR. -/
theorem test_busy_write :
    ((stepped { (flying 0x01 [.write 0x0003 0x11]) with opa := 0x0B, opb := 0x83 }).bind stepped).map
      (fun t => (t.opa, t.ovr, t.result, t.errCode)) = some (0x0B, true, 0xEA, 0x00) := by decide

/-- LC-3: a write to RESULT is ignored, and 0x0C00 reads 0x00. -/
theorem test_read_only_and_reserved :
    (stepped { (idle [.write 0x0005 0x55]) with result := 0x77 }).map (·.result) = some 0x77 ∧
    (stepped (idle [.read 0x0C00])).map (·.busData) = some (some 0x00) := by decide

/-- LC-4, LC-5: BUFSZ and LEN, low byte first. -/
theorem test_little_endian :
    (stepped (idle [.read 0x000A])).map (·.busData) = some (some 0x00) ∧
    (stepped (idle [.read 0x000B])).map (·.busData) = some (some 0x10) ∧
    ((stepped (idle [.write 0x0006 0x20, .write 0x0007 0x01])).bind stepped).map (·.len) = some 0x0120 := by decide

/-- R102's expansions, from the listings of P1 and P3 and from LC-5. -/
theorem test_scripts :
    Script.wr (Script.addr .opa 0) 0x57 = [.write 0x0003 0x57] ∧
    Script.run .gfMul 1 = [.write 0x0000 0x01, .read 0x0001, .complete, .read 0x0001] ∧
    Script.wr16 (Script.addr .len 0) 0x0120 = [.write 0x0006 0x20, .write 0x0007 0x01] ∧
    Script.rd16 (Script.addr .outlen 0) = [.read 0x0008, .read 0x0009] ∧
    Script.wrn (Script.addr .din 0) [0x00, 0x01] = [.write 0x4000 0x00, .write 0x4001 0x01] ∧
    Script.rdn (Script.addr .expkey 160) 2 = [.read 0x03A0, .read 0x03A1] := by decide

/-- P1's table reads: GFINV[0xCA] and MUL14[0x57], also while a command is in flight (R70). -/
theorem test_constant_tables :
    (stepped (idle [.read 0x04CA])).map (·.busData) = some (some 0x53) ∧
    (stepped (flying 0x00 [.read 0x0A57])).map (·.busData) = some (some 0x67) := by decide +kernel

/-- A store to the last byte of DIN is kept, one to the address after it is ignored (R60). -/
theorem test_buffer_end :
    (stepped (idle [.write 0x4FFF 0xAB])).map (·.mem) = some [(0x4FFF, 0xAB)] ∧
    (stepped (idle [.write 0x5000 0xAB])).map (·.mem) = some [] := by decide

/-- Section 2.6's STATUS values 0x32, 0x22 and 0x3E after a completion, from the flags and the two tables' bits. -/
theorem test_status_values :
    byteOfBits [false, true, false, false, true, true, false, false] = 0x32 ∧
    byteOfBits [false, true, false, false, false, true, false, false] = 0x22 ∧
    byteOfBits [false, true, true, true, true, true, false, false] = 0x3E := by decide

/-- A reset while a command is in flight abandons it (R282). -/
theorem test_reset_abandons :
    (stepped { (flying 0x01 [.reset]) with opa := 0x57, opb := 0x83 }).map
      (fun t => (t.busy, t.doneFlag, t.lastCmd, t.opa, t.result)) = some (false, false, 0x00, 0x00, 0x00) := by decide

/-! ## Witnesses: for each statement with hypotheses, a state and operands that meet them, each clause at its
boundaries -/

/-- x ↦ 255 - x: a table that is its own inverse and fixes nothing. -/
@[irreducible] def complement : List Byte := (List.range 256).map fun x => BitVec.ofNat 8 (255 - x)

theorem complement_length : complement.length = 256 := by simp [complement]

theorem complement_bijective : bijective complement = true := by decide +kernel

/-- A table all of whose entries are 0x63 (SB-5). -/
@[irreducible] def constant63 : List Byte := List.replicate 256 0x63

theorem constant63_length : constant63.length = 256 := by
  unfold constant63
  exact List.length_replicate

/-- A state whose SBOX holds a table (base 0x0100), or whose ISBOX does (base 0x0200). -/
def tabled (base : Nat) (t : List Byte) : State := State.reset.storeBlock base t

theorem distinct_tabled {base : Nat} {t : List Byte} (hl : t.length = 256) (hb : bijective t = true) :
    DistinctAt (tabled base t) base := by
  rw [distinctAt_iff, tabled, State.loadBlock_storeBlock_self _ _ _ hl]
  exact (bijective_iff_nodup t).mp hb

theorem not_distinct_tabled {base : Nat} {t : List Byte} (hl : t.length = 256) (hb : bijective t = false) :
    ¬ DistinctAt (tabled base t) base := by
  rw [distinctAt_iff, tabled, State.loadBlock_storeBlock_self _ _ _ hl, ← bijective_iff_nodup, hb]
  exact Bool.false_ne_true

theorem constant63_not_bijective : bijective constant63 = false := by decide +kernel

theorem distinct_sbox : DistinctAt (tabled 0x0100 complement) 0x0100 :=
  distinct_tabled complement_length complement_bijective

theorem distinct_isbox : DistinctAt (tabled 0x0200 complement) 0x0200 :=
  distinct_tabled complement_length complement_bijective

theorem not_distinct_sbox : ¬ DistinctAt (tabled 0x0100 constant63) 0x0100 :=
  not_distinct_tabled constant63_length constant63_not_bijective

theorem not_distinct_isbox : ¬ DistinctAt (tabled 0x0200 constant63) 0x0200 :=
  not_distinct_tabled constant63_length constant63_not_bijective

/-- DistinctAt depends on the memory and the epoch alone. -/
theorem distinctAt_congr {s t : State} (hm : t.mem = s.mem) (he : t.epoch = s.epoch) (base : Nat) :
    DistinctAt t base ↔ DistinctAt s base := by
  rw [distinctAt_iff, distinctAt_iff, State.loadBlock_congr hm he]

/-- Every byte of the data stores defined, up to 16 bytes of DIN, with LEN = 16. -/
def everyByte : State :=
  (((((((({ State.reset with len := 16 } : State).storeBlock 0x0010 (bytesOf 9 0x11)).storeBlock 0x0020
    (bytesOf 16 0x22)).storeBlock 0x0030 (bytesOf 16 0x33)).storeBlock 0x0040 (bytesOf 16 0x44)).storeBlock 0x0100
    (bytesOf 256 0x55)).storeBlock 0x0200 (bytesOf 256 0x66)).storeBlock 0x0300 (bytesOf 176 0x77)).storeBlock 0x4000
    (bytesOf 16 0x88)

/-- How many of the address classes of the statements an address lies in: the registers, the host's stores, the
engine's stores, the constant tables, the reserved addresses. -/
def classes (s : State) (a : Nat) : Nat :=
  [decide (a < 0x000C), decide (IsHostStore s a), decide (IsEngineStore s a), decide (IsConstTable a),
    decide (IsReserved s a)].count true

/-- The classes neither overlap nor leave a gap where they meet, for the default, the least and the greatest
BUF_BYTES. -/
theorem witness_address_classes :
    ([4096, 32, 16384].all fun b => [0x0000, 0x000B, 0x000C, 0x000F, 0x0010, 0x0018, 0x0019, 0x001F, 0x0020, 0x004F,
      0x0050, 0x00FF, 0x0100, 0x02FF, 0x0300, 0x03AF, 0x03B0, 0x03FF, 0x0400, 0x0AFF, 0x0B00, 0x3FFF, 0x4000, 0x401F,
      0x4020, 0x4FFF, 0x5000, 0x7FFF, 0x8000, 0x801F, 0x8020, 0x8FFF, 0x9000, 0xBFFF, 0xC000, 0xFFFF].all fun a =>
        classes { State.reset with bufBytes := BitVec.ofNat 16 b } a == 1) = true := by decide

/-- The class of each boundary address, with BUF_BYTES = 4096. -/
theorem witness_address_class_members :
    ([0x0010, 0x0018, 0x0020, 0x004F, 0x0100, 0x02FF, 0x4000, 0x4FFF].all fun a =>
      decide (IsHostStore State.reset a)) = true ∧
    ([0x0300, 0x03AF, 0x8000, 0x8FFF].all fun a => decide (IsEngineStore State.reset a)) = true ∧
    ([0x0400, 0x0AFF].all fun a => decide (IsConstTable a)) = true ∧
    ([0x000C, 0x000F, 0x0019, 0x001F, 0x0050, 0x00FF, 0x03B0, 0x03FF, 0x0B00, 0x3FFF, 0x5000, 0x7FFF, 0x9000,
      0xFFFF].all fun a => decide (IsReserved State.reset a)) = true ∧
    BufBytes.wf State.reset.bufBytes.toNat = true := by decide

/-- Both ends of each illegal range, and of each legal one. -/
theorem witness_IllegalByteCompletesWithIllegalCommand :
    let illegal (n : Nat) : Bool := (0x09 ≤ n && n ≤ 0x0F) || (0x13 ≤ n && n ≤ 0x1F) || (0x23 ≤ n && n ≤ 0x2F) ||
      (0x32 ≤ n && n ≤ 0x3F) || (0x47 ≤ n && n ≤ 0x4F) || (0x50 ≤ n && n ≤ 0xFF)
    (([0x09, 0x0F, 0x13, 0x1F, 0x23, 0x2F, 0x32, 0x3F, 0x47, 0x4F, 0x50, 0xFF] : List Byte).all fun v =>
      illegal v.toNat && !(idle [.write 0x0000 v, .complete]).busy &&
        (idle [.write 0x0000 v, .complete]).schedule == [.write 0x0000 v, .complete] &&
        (idle [.write 0x0000 v]).schedule == [.write 0x0000 v]) = true ∧
    UnitsTurn [.complete] ∧ UnitsTurn [] ∧
    (([0x00, 0x08, 0x10, 0x12, 0x20, 0x22, 0x30, 0x31, 0x40, 0x46] : List Byte).all fun v =>
      illegal v.toNat == false) = true := by decide

theorem witness_AnyByteIsAccepted :
    (idle [.write 0x0000 0xFF, .complete]).schedule = .write 0x0000 0xFF :: [.complete] ∧
    (idle [.write 0x0000 0xFF]).schedule = .write 0x0000 0xFF :: [] ∧ (idle [.write 0x0000 0xFF]).busy = false ∧
    (idle [.write 0x0000 0xFF, .complete]).busy = false ∧ UnitsTurn [.complete] ∧ UnitsTurn [] ∧
    decode 0xFF = .error (.illegalCommand 0xFF) ∧ (flying 0x01 [.write 0x0000 0x02]).busy = true ∧
    (flying 0x01 [.write 0x0000 0x02]).schedule = .write 0x0000 0x02 :: [] := by decide

theorem witness_StepRunsDecodedCommand :
    (flying 0x46 []).busy = true ∧ decode (flying 0x46 []).lastCmd = .ok .invMixColumns ∧ (flying 0x46 []).schedule = [] ∧
    (flying 0x00 [.complete]).busy = true ∧ decode (flying 0x00 [.complete]).lastCmd = .ok .nop ∧
    (flying 0x00 [.complete]).schedule = .complete :: [] := by decide

theorem witness_IssuedCommandRuns :
    (idle [.write 0x0000 0x31, .complete]).busy = false ∧
    (idle [.write 0x0000 0x31, .complete]).schedule = .write 0x0000 (encode .cbcDec) :: [.complete] ∧
    UnitsTurn [.complete] ∧ (idle [.write 0x0000 0x46]).busy = false ∧
    (idle [.write 0x0000 0x46]).schedule = .write 0x0000 (encode .invMixColumns) :: [] ∧ UnitsTurn [] := by decide

theorem witness_FailureWritesNothingElse :
    (∃ t, exec .addRoundKey (operands 0x0B 0x00) = .next t ∧ t.err = true) ∧
    ((flying 0x5A [.complete]).busy = true ∧ UnitsTurn (flying 0x5A [.complete]).schedule ∧
      ∃ t, step (flying 0x5A [.complete]) = .next t ∧ t.err = true) ∧
    ((flying 0x5A []).busy = true ∧ UnitsTurn (flying 0x5A []).schedule ∧
      ∃ t, step (flying 0x5A []) = .next t ∧ t.err = true) :=
  ⟨⟨_, rfl, by decide⟩, ⟨rfl, .inr rfl, _, rfl, by decide⟩, ⟨rfl, .inl rfl, _, rfl, by decide⟩⟩

/-- The addresses next to each range a command writes are outside it. -/
theorem witness_CommandsWriteOnlyTheirRow :
    (∃ t, exec .shiftRows (block 0x55) = .next t) ∧ writesResult .shiftRows = false ∧
    (∀ r ∈ writtenBytes .shiftRows (block 0x55), ¬ (r.1 ≤ 0x003F ∧ 0x003F < r.1 + r.2)) ∧
    (∀ r ∈ writtenBytes .shiftRows (block 0x55), ¬ (r.1 ≤ 0x0050 ∧ 0x0050 < r.1 + r.2)) ∧
    (∃ t, exec .cbcEnc { State.reset with len := 16 } = .next t) ∧
    (∀ r ∈ writtenBytes .cbcEnc { State.reset with len := 16 }, ¬ (r.1 ≤ 0x8020 ∧ 0x8020 < r.1 + r.2)) ∧
    (∀ r ∈ writtenBytes .cbcEnc { State.reset with len := 16 }, ¬ (r.1 ≤ 0x02FF ∧ 0x02FF < r.1 + r.2)) := by
  refine ⟨⟨_, exec_eq _ _⟩, rfl, by decide, by decide, ⟨_, exec_eq _ _⟩, by decide, by decide⟩

/-- A host write to KEY[0], and a reset that takes IV[15] away. -/
theorem witness_KeyAndIvChangeOnlyByHostOrReset :
    (∃ t, step (idle [.write 0x0020 0x77]) = .next t ∧
      Memory.read t.mem 0x0020 ≠ Memory.read (idle [.write 0x0020 0x77]).mem 0x0020) ∧
    (∃ t, step { holding [(0x003F, 0x01)] with schedule := [.reset] } = .next t ∧
      Memory.read t.mem 0x003F ≠ Memory.read [(0x003F, 0x01)] 0x003F) :=
  ⟨⟨_, rfl, by decide⟩, ⟨_, rfl, by decide⟩⟩

/-- The state of a KEY_EXPAND in flight with a bijective SBOX. -/
def expanding : State := { (tabled 0x0100 complement) with lastCmd := 0x20, busy := true }

theorem expanding_sbox : expanding.sbox = complement :=
  (State.loadBlock_congr (s := tabled 0x0100 complement) rfl rfl 0x0100 256).trans
    (State.loadBlock_storeBlock_self _ _ _ complement_length)

theorem keyExpand_outcome (s : State) (h : bijective s.sbox = true) :
    exec .keyExpand s = .next (s.storeBlock 0x0300 (keyExpansion s.key s.sbox)).succeed := by
  rw [exec_eq, outcome, keyExpand, h]
  rfl

theorem keyExpansion_ne_nil (k t : List Byte) : keyExpansion k t ≠ [] := by
  simp [keyExpansion, keyWords, expandWords, List.range_succ]

/-- The memory before a block store of 0x0100 to 0x01FF reads none at EXPKEY. -/
theorem expanding_mem : Memory.read expanding.mem 0x0300 = none := by
  have h : expanding.mem = Memory.writeBlock [] 0x0100 complement := rfl
  rw [h, Memory.read_writeBlock_outside _ _ (by rw [complement_length]; omega)]
  rfl

/-- KEY_EXPAND in flight writes EXPKEY[0], and a reset takes EXPKEY[175] away. -/
theorem witness_ExpandedKeyGoesStale :
    (∃ t, step expanding = .next t ∧ Memory.read t.mem 0x0300 ≠ Memory.read expanding.mem 0x0300) ∧
    (∃ t, step { holding [(0x03AF, 0x01)] with schedule := [.reset] } = .next t ∧
      Memory.read t.mem 0x03AF ≠ Memory.read [(0x03AF, 0x01)] 0x03AF) := by
  have hb : bijective expanding.sbox = true := by rw [expanding_sbox, complement_bijective]
  have hs : step expanding = exec .keyExpand expanding := rfl
  refine ⟨⟨_, hs.trans (keyExpand_outcome expanding hb), ?_⟩, ⟨_, rfl, by decide⟩⟩
  have hp := List.length_pos_iff.mpr (keyExpansion_ne_nil expanding.key expanding.sbox)
  rw [State.succeed_mem, State.storeBlock_mem, Memory.read_writeBlock, if_pos ⟨le_refl _, by omega⟩, expanding_mem,
    List.getElem?_eq_getElem (by omega)]
  exact Option.some_ne_none _

/-- The two reads of DIN[0], with an idle turn of the command unit and a read between them. -/
def twoReads : State := idle (.read 0x4000 :: ([.complete, .read 0x0001] ++ .read 0x4000 :: []))

theorem witness_ReadsHaveNoSideEffects :
    twoReads.busy = false ∧
    (∀ e ∈ ([.complete, .read 0x0001] : List Event), e = .complete ∨ ∃ b, e = .read b) ∧
    twoReads.schedule = .read 0x4000 :: ([.complete, .read 0x0001] ++ .read 0x4000 :: []) ∧
    (flying 0x01 [.read 0x0005]).schedule = .read 0x0005 :: [] := by
  refine ⟨rfl, fun e he => ?_, rfl, rfl⟩
  simp only [List.mem_cons, List.not_mem_nil, or_false] at he
  exact he.imp id fun h => ⟨0x0001, h⟩

theorem witness_IdleReadReturnsTheItem :
    (idle [.read 0x4FFF]).busy = false ∧ BufBytes.wf (idle [.read 0x4FFF]).bufBytes.toNat = true ∧
    (idle [.read 0x4FFF]).schedule = .read 0x4FFF :: [] ∧ IsHostStore (idle [.read 0x4FFF]) (0x4FFF : Addr).toNat ∧
    IsEngineStore (idle [.read 0x8FFF]) (0x8FFF : Addr).toNat ∧ IsConstTable (0x0AFF : Addr).toNat ∧
    IsReserved (idle [.read 0x9000]) (0x9000 : Addr).toNat := by decide

theorem witness_IdleAccessOutcomes :
    (idle [.read 0xFFFF]).busy = false ∧ BufBytes.wf (idle [.read 0xFFFF]).bufBytes.toNat = true ∧
    (idle [.read 0xFFFF]).schedule = .read 0xFFFF :: [] ∧ IsReserved (idle [.read 0xFFFF]) (0xFFFF : Addr).toNat ∧
    (idle [.write 0x5000 0x11]).schedule = .write 0x5000 0x11 :: [] ∧
    IsReserved (idle [.write 0x5000 0x11]) (0x5000 : Addr).toNat ∧
    IsEngineStore (idle [.write 0x03AF 0x11]) (0x03AF : Addr).toNat ∧ IsConstTable (0x0400 : Addr).toNat ∧
    (0x000B : Addr).toNat ∈ [0x0001, 0x0002, 0x0005, 0x0008, 0x0009, 0x000A, 0x000B] ∧
    IsHostStore (idle [.write 0x4FFF 0x11]) (0x4FFF : Addr).toNat := by decide

theorem witness_BusyWriteIsDropped :
    (flying 0x01 [.write 0x0000 0x02]).busy = true ∧
    (flying 0x01 [.write 0x0000 0x02]).schedule = .write 0x0000 0x02 :: [] := by decide

theorem witness_BusyReadsReturnWhatIsDefined :
    (flying 0x01 [.read 0x0001]).busy = true ∧ BufBytes.wf (flying 0x01 [.read 0x0001]).bufBytes.toNat = true ∧
    (flying 0x01 [.read 0x0001]).schedule = .read 0x0001 :: [] ∧ IsConstTable (0x0AFF : Addr).toNat ∧
    IsReserved (flying 0x01 [.read 0x7FFF]) (0x7FFF : Addr).toNat := by decide

theorem witness_ConstantTablesHoldTheFieldFunctions :
    IsConstTable (0x0400 : Addr).toNat ∧ IsConstTable (0x0AFF : Addr).toNat ∧
    (idle [.read 0x0400]).schedule = .read 0x0400 :: [] ∧ (flying 0x01 [.read 0x0AFF]).schedule = .read 0x0AFF :: [] := by
  decide

theorem defined_tabled {base : Nat} {t : List Byte} (hl : t.length = 256) : (tabled base t).defined base 256 = true := by
  rw [State.defined_iff]
  intro k hk
  have h : Memory.read (tabled base t).mem (base + k) = t[k]? := by
    rw [tabled, State.storeBlock_mem, Memory.read_writeBlock, if_pos (by omega), Nat.add_sub_cancel_left]
  rw [h, List.getElem?_eq_getElem (by omega)]
  rfl

/-- A defined SBOX and a defined ISBOX; the bit is 1 on one and 0 on the other. -/
theorem witness_StatusBits :
    (tabled 0x0100 complement).defined 0x0100 256 = true ∧ (tabled 0x0200 constant63).defined 0x0200 256 = true ∧
    DistinctAt (tabled 0x0100 complement) 0x0100 ∧ ¬ DistinctAt (tabled 0x0200 constant63) 0x0200 :=
  ⟨defined_tabled complement_length, defined_tabled constant63_length, distinct_sbox, not_distinct_isbox⟩

theorem witness_ResetEventAtAnyTime :
    (flying 0x30 [.reset]).schedule = .reset :: [] ∧ (flying 0x30 [.reset]).busy = true := by decide

/-- A block store defines its bytes. -/
theorem defined_stored (s : State) (base n : Nat) (vs : List Byte) (h : n ≤ vs.length) :
    (s.storeBlock base vs).defined base n = true := by
  rw [State.defined_iff]
  intro k hk
  rw [State.storeBlock_mem, Memory.read_writeBlock, if_pos (by omega), Nat.add_sub_cancel_left,
    List.getElem?_eq_getElem (by omega)]
  rfl

/-- A block store leaves defined what is. -/
theorem defined_kept {s : State} {base n : Nat} (b : Nat) (vs : List Byte) (h : s.defined base n = true) :
    (s.storeBlock b vs).defined base n = true := by
  rw [State.defined_iff] at h ⊢
  intro k hk
  rw [State.storeBlock_mem, Memory.read_writeBlock]
  split_ifs with hr
  · rw [List.getElem?_eq_getElem (by omega)]
    rfl
  · exact h k hk

/-- CONST is the ninth byte of the first store. -/
theorem const_defined (s : State) : (s.storeBlock 0x0010 (bytesOf 9 0x11)).defined 0x0018 1 = true := by
  rw [State.defined_iff]
  intro k hk
  rw [State.storeBlock_mem, Memory.read_writeBlock, if_pos (by rw [bytesOf_length]; omega),
    List.getElem?_eq_getElem (by rw [bytesOf_length]; omega)]
  rfl

/-- Every command's inputs are defined in one state. -/
theorem witness_DefinedInputsFixTheOutcome (i : Instr) : inputsDefined i everyByte = true := by
  have hl : everyByte.len.toNat = 16 := rfl
  have h1 : everyByte.defined 0x0010 8 = true :=
    defined_kept _ _ (defined_kept _ _ (defined_kept _ _ (defined_kept _ _ (
      defined_kept _ _ (defined_kept _ _ (defined_kept _ _ (defined_stored _ _ _ _ (by simp [bytesOf_length]))))))))
  have h2 : everyByte.defined 0x0018 1 = true :=
    defined_kept _ _ (defined_kept _ _ (defined_kept _ _ (defined_kept _ _ (
      defined_kept _ _ (defined_kept _ _ (defined_kept _ _ (const_defined _)))))))
  have h3 : everyByte.defined 0x0020 16 = true :=
    defined_kept _ _ (defined_kept _ _ (defined_kept _ _ (defined_kept _ _ (
      defined_kept _ _ (defined_kept _ _ (defined_stored _ _ _ _ (by simp [bytesOf_length])))))))
  have h4 : everyByte.defined 0x0030 16 = true :=
    defined_kept _ _ (defined_kept _ _ (defined_kept _ _ (
      defined_kept _ _ (defined_kept _ _ (defined_stored _ _ _ _ (by simp [bytesOf_length]))))))
  have h5 : everyByte.defined 0x0040 16 = true :=
    defined_kept _ _ (defined_kept _ _ (defined_kept _ _ (
      defined_kept _ _ (defined_stored _ _ _ _ (by simp [bytesOf_length])))))
  have h6 : everyByte.defined 0x0100 256 = true :=
    defined_kept _ _ (defined_kept _ _ (defined_kept _ _ (defined_stored _ _ _ _ (by simp [bytesOf_length]))))
  have h7 : everyByte.defined 0x0200 256 = true :=
    defined_kept _ _ (defined_kept _ _ (defined_stored _ _ _ _ (by simp [bytesOf_length])))
  have h8 : everyByte.defined 0x0300 176 = true :=
    defined_kept _ _ (defined_stored _ _ _ _ (by simp [bytesOf_length]))
  have h9 : everyByte.defined 0x4000 16 = true :=
    defined_stored _ _ _ _ (by simp [bytesOf_length])
  cases i <;> simp only [inputsDefined, hl, h1, h2, h3, h4, h5, h6, h7, h8, h9, Bool.and_self]

/-- In SB-10's table 255 is the last index of 0x5A, and 0x00 occurs nowhere. -/
theorem witness_SwapTakesTheLastIndex :
    (List.replicate 256 (0x5A : Byte)).length = 256 ∧
    (((List.replicate 256 (0x5A : Byte)).getD 255 0).toNat = 0x5A ∧
      ∀ z < 256, 255 < z → ((List.replicate 256 (0x5A : Byte)).getD z 0).toNat ≠ 0x5A) ∧
    ∀ x < 256, ((List.replicate 256 (0x5A : Byte)).getD x 0).toNat ≠ 0x00 := by
  have h (x : Nat) (hx : x < 256) : (List.replicate 256 (0x5A : Byte)).getD x 0 = 0x5A := by
    rw [List.getD_eq_getElem?_getD, List.getElem?_replicate, if_pos hx]
    rfl
  exact ⟨List.length_replicate, ⟨by rw [h 255 (by omega)]; rfl, fun z hz hlt => by omega⟩,
    fun x hx => by rw [h x hx]; decide⟩

theorem witness_SwapInvertsABijectiveTable : complement.length = 256 ∧ bijective complement = true :=
  ⟨complement_length, complement_bijective⟩

/-- SB-11's table, for which the right-hand side holds, and SB-5's, for which it does not. -/
theorem witness_SwapBijectiveFromOneCollision :
    oneCollision.length = 256 ∧ bijective oneCollision = false ∧ constant63.length = 256 ∧ bijective constant63 = false :=
  ⟨by simp [oneCollision], test_bijective_one_collision.1, constant63_length, constant63_not_bijective⟩

/-- T[0] = 0xFF, T[1] = T[0xFF] = 0x00, T[x] = x elsewhere (assumption 7). -/
def swapsBack : List Byte :=
  0xFF :: 0x00 :: (((List.range 255).drop 2).map (BitVec.ofNat 8) ++ [0x00])

theorem witness_NonBijectiveTableNeverSwapsBack : swapsBack.length = 256 ∧ bijective swapsBack = false := by
  decide +kernel

theorem witness_BijectiveMeansPairwiseDistinct :
    complement.length = 256 ∧ (tabled 0x0100 complement).defined 0x0100 256 = true ∧
    (tabled 0x0200 complement).defined 0x0200 256 = true :=
  ⟨complement_length, defined_tabled complement_length, defined_tabled complement_length⟩

/-- A key and a table, a word at a multiple of 4 and one that is not, the first and the last. -/
theorem witness_KeyExpansionWords :
    (bytesOf 16 0x000102030405060708090a0b0c0d0e0f).length = 16 ∧ aesSbox.length = 256 ∧
    (4 ≤ 4 ∧ 4 < 44 ∧ 4 % 4 = 0 ∧ 0 < 4) ∧ (4 ≤ 43 ∧ 43 < 44 ∧ 43 % 4 ≠ 0 ∧ 3 < 4) :=
  ⟨bytesOf_length _ _, aesSbox_length, by decide, by decide⟩

/-- A table of zeros, and one that differs from it at an index no lookup of the zero key reads. -/
theorem witness_KeyExpansionReadsOnlyItsLookups :
    let K : List Byte := List.replicate 16 0x00
    let S : List Byte := List.replicate 256 0x00
    let S' : List Byte := List.replicate 255 0x00 ++ [0x01]
    K.length = 16 ∧ S.length = 256 ∧ S'.length = 256 ∧ S ≠ S' ∧
    ∀ n ≤ 10, 1 ≤ n → ∀ j < 4,
      S.getD ((keyExpansion K S).getD (4 * (4 * n - 1) + j) 0).toNat 0 =
        S'.getD ((keyExpansion K S).getD (4 * (4 * n - 1) + j) 0).toNat 0 := by decide +kernel

theorem witness_KeyExpandOutcome :
    DistinctAt (tabled 0x0100 complement) 0x0100 ∧ ¬ DistinctAt (tabled 0x0100 constant63) 0x0100 :=
  ⟨distinct_sbox, not_distinct_sbox⟩

theorem witness_AddRoundKeyOutcome :
    (operands 0x00 0).opa.toNat ≤ 10 ∧ (operands 0x0A 0).opa.toNat ≤ 10 ∧ 10 < (operands 0x0B 0).opa.toNat ∧
    10 < (operands 0xFF 0).opa.toNat := by decide

theorem witness_SubstitutionCommandsOutcome :
    DistinctAt (tabled 0x0100 complement) 0x0100 ∧ ¬ DistinctAt (tabled 0x0100 constant63) 0x0100 ∧
    DistinctAt (tabled 0x0200 complement) 0x0200 ∧ ¬ DistinctAt (tabled 0x0200 constant63) 0x0200 :=
  ⟨distinct_sbox, not_distinct_sbox, distinct_isbox, not_distinct_isbox⟩

theorem witness_BlockCommandsOutcome :
    DistinctAt (tabled 0x0100 complement) 0x0100 ∧ ¬ DistinctAt (tabled 0x0100 constant63) 0x0100 ∧
    DistinctAt (tabled 0x0200 complement) 0x0200 ∧ ¬ DistinctAt (tabled 0x0200 constant63) 0x0200 :=
  ⟨distinct_sbox, not_distinct_sbox, distinct_isbox, not_distinct_isbox⟩

theorem witness_CipherRounds : (bytesOf 16 0x00112233445566778899aabbccddeeff).length = 16 := bytesOf_length _ _

theorem witness_InverseLayersUndoTheLayers :
    (bytesOf 16 0x00112233445566778899aabbccddeeff).length = 16 ∧ kx2.length = 176 ∧ aesSbox.length = 256 ∧
    bijective aesSbox = true ∧ 0 ≤ 10 ∧ 10 ≤ 10 :=
  ⟨bytesOf_length _ _, kx2_length, aesSbox_length, aes_bijective, by decide, by decide⟩

theorem witness_BlockRoundTrip :
    (bytesOf 16 0x00112233445566778899aabbccddeeff).length = 16 ∧
    (bytesOf 16 0x000102030405060708090a0b0c0d0e0f).length = 16 ∧ aesSbox.length = 256 ∧ bijective aesSbox = true :=
  ⟨bytesOf_length _ _, bytesOf_length _ _, aesSbox_length, aes_bijective⟩

theorem witness_EncryptThenDecryptRestoresBlk :
    ∃ t, DistinctAt (cipherState 0x55) 0x0100 ∧ (cipherState 0x55).isbox = swap (cipherState 0x55).sbox ∧
      exec .encBlock (cipherState 0x55) = .next t :=
  ⟨_, by
    rw [distinctAt_iff]
    have h : (cipherState 0x55).loadBlock 0x0100 256 = aesSbox := cipherState_sbox 0x55
    rw [h]
    exact (bijective_iff_nodup _).mp aes_bijective, by
    rw [cipherState_sbox, cipherState_isbox, test_swap_aes], exec_eq _ _⟩

/-- Both tables defined, the one at 0x0100 or the one at 0x0200 constant. -/
def twoTables (t u : List Byte) : State := (State.reset.storeBlock 0x0100 t).storeBlock 0x0200 u

theorem twoTables_sbox (t u : List Byte) (h : t.length = 256) : (twoTables t u).loadBlock 0x0100 256 = t :=
  (State.loadBlock_storeBlock_other _ _ (.inl (by decide))).trans (State.loadBlock_storeBlock_self _ _ _ h)

theorem twoTables_isbox (t u : List Byte) (h : u.length = 256) : (twoTables t u).loadBlock 0x0200 256 = u :=
  State.loadBlock_storeBlock_self _ _ _ h

theorem twoTables_defined (t u : List Byte) (ht : t.length = 256) (hu : u.length = 256) :
    (twoTables t u).defined 0x0100 256 = true ∧ (twoTables t u).defined 0x0200 256 = true :=
  ⟨defined_kept _ _ (defined_stored _ _ _ _ ht.ge), defined_stored _ _ _ _ hu.ge⟩

theorem witness_BijectivityIsCheckedBeforeCipherUse :
    ((twoTables constant63 complement).defined 0x0100 256 = true ∧ (twoTables constant63 complement).defined 0x0200 256 = true ∧
      ¬ DistinctAt (twoTables constant63 complement) 0x0100 ∧
      (twoTables constant63 complement).len.toNat < (twoTables constant63 complement).bufBytes.toNat ∧
      ∃ t, exec .keyExpand (twoTables constant63 complement) = .next t ∧ t.errCode = 0x03) ∧
    ((twoTables complement constant63).defined 0x0100 256 = true ∧ (twoTables complement constant63).defined 0x0200 256 = true ∧
      ¬ DistinctAt (twoTables complement constant63) 0x0200 ∧ (twoTables complement constant63).len.toNat % 16 = 0 ∧
      (twoTables complement constant63).len.toNat ≤ (twoTables complement constant63).bufBytes.toNat) := by
  have h1 : (twoTables constant63 complement).sbox = constant63 := twoTables_sbox _ _ constant63_length
  have hn1 : ¬ DistinctAt (twoTables constant63 complement) 0x0100 := by
    rw [distinctAt_iff, twoTables_sbox _ _ constant63_length, ← bijective_iff_nodup, constant63_not_bijective]
    exact Bool.false_ne_true
  have hn2 : ¬ DistinctAt (twoTables complement constant63) 0x0200 := by
    rw [distinctAt_iff, twoTables_isbox _ _ constant63_length, ← bijective_iff_nodup, constant63_not_bijective]
    exact Bool.false_ne_true
  have d1 := twoTables_defined constant63 complement constant63_length complement_length
  have d2 := twoTables_defined complement constant63 complement_length constant63_length
  refine ⟨⟨d1.1, d1.2, hn1, by change 0 < 4096; decide, _, exec_eq _ _, ?_⟩, d2.1, d2.2, hn2, rfl, Nat.zero_le _⟩
  rw [outcome, keyExpand, h1, constant63_not_bijective]
  rfl

/-- A consistent run of 16 and of 1, an inconsistent run, a final 0x00 and a final 0x11, and no byte at all. -/
theorem witness_UnpadStripsOnlyAConsistentRun :
    let consistent (D : List Byte) : Bool :=
      let p := (D.getD (D.length - 1) 0).toNat
      decide (1 ≤ p) && decide (p ≤ 16) && decide (p ≤ D.length) &&
        (List.range (p + 1)).all fun k => k == 0 || (D.getD (D.length - k) 0).toNat == p
    consistent (List.replicate 16 0x10) = true ∧ consistent [0x41, 0x01] = true ∧
    consistent [0x02, 0x03, 0x03] = false ∧ consistent [0x41, 0x00] = false ∧ consistent (List.replicate 17 0x11) = false ∧
    ([] : List Byte).length = 0 := by decide

theorem witness_CbcEncryptionChains :
    (bytesOf 32 0x5555).length = 16 * 2 ∧ (bytesOf 16 0).length = 16 ∧ 0 < 2 ∧ 1 < 2 :=
  ⟨bytesOf_length _ _, bytesOf_length _ _, by decide, by decide⟩

theorem witness_CbcDecryptionChains :
    (bytesOf 32 0x5555).length = 16 * 2 ∧ (bytesOf 16 0).length = 16 ∧ 0 < 2 ∧ 1 < 2 :=
  ⟨bytesOf_length _ _, bytesOf_length _ _, by decide, by decide⟩

/-- A state with a table and LEN. -/
def tabledLen (base : Nat) (t : List Byte) (n : Nat) : State := { tabled base t with len := BitVec.ofNat 16 n }

theorem distinct_tabledLen (base n : Nat) : DistinctAt (tabledLen base complement n) base :=
  (distinctAt_congr (s := tabled base complement) rfl rfl base).mpr
    (distinct_tabled complement_length complement_bijective)

theorem not_distinct_tabledLen (base n : Nat) : ¬ DistinctAt (tabledLen base constant63 n) base := fun h =>
  not_distinct_tabled constant63_length constant63_not_bijective
    ((distinctAt_congr (s := tabled base constant63) rfl rfl base).mp h)

/-- LEN = BUF_BYTES fails; LEN = BUF_BYTES - 1 meets the other two clauses, one with each kind of table; LEN = 0. -/
theorem witness_CbcEncOutcome :
    BufBytes.wf State.reset.bufBytes.toNat = true ∧
    4096 ≤ (BitVec.ofNat 16 4096).toNat ∧ (BitVec.ofNat 16 4095).toNat < 4096 ∧ (BitVec.ofNat 16 0).toNat < 4096 ∧
    (∀ n, (tabledLen 0x0100 complement n).len = BitVec.ofNat 16 n ∧ (tabledLen 0x0100 complement n).bufBytes = 4096#16) ∧
    ¬ DistinctAt (tabledLen 0x0100 constant63 4095) 0x0100 ∧ DistinctAt (tabledLen 0x0100 complement 4095) 0x0100 :=
  ⟨by decide, by decide, by decide, by decide, fun _ => ⟨rfl, rfl⟩, not_distinct_tabledLen _ _, distinct_tabledLen _ _⟩

/-- LEN = 0x4001 and 17, LEN = 4112, LEN = 4096 with each kind of table, LEN = 0. -/
theorem witness_CbcDecOutcome :
    (BitVec.ofNat 16 0x4001).toNat % 16 ≠ 0 ∧ (BitVec.ofNat 16 17).toNat % 16 ≠ 0 ∧
    (BitVec.ofNat 16 4112).toNat % 16 = 0 ∧ 4096 < (BitVec.ofNat 16 4112).toNat ∧
    (BitVec.ofNat 16 4096).toNat % 16 = 0 ∧ (BitVec.ofNat 16 4096).toNat ≤ 4096 ∧ (BitVec.ofNat 16 0).toNat % 16 = 0 ∧
    (∀ n, (tabledLen 0x0200 complement n).len = BitVec.ofNat 16 n ∧ (tabledLen 0x0200 complement n).bufBytes = 4096#16) ∧
    ¬ DistinctAt (tabledLen 0x0200 constant63 4096) 0x0200 ∧ DistinctAt (tabledLen 0x0200 complement 4096) 0x0200 :=
  ⟨by decide, by decide, by decide, by decide, by decide, by decide, by decide, fun _ => ⟨rfl, rfl⟩,
    not_distinct_tabledLen _ _, distinct_tabledLen _ _⟩

theorem cbcState_defined (n : Nat) (din : List Byte) (h : n ≤ din.length) (hn : n < 65536) :
    inputsDefined .cbcEnc (cbcState n din) = true ∧ inputsDefined .cbcDec (cbcState n din) = true := by
  have hl : (cbcState n din).len.toNat = n := by
    rw [cbcState_len, BitVec.toNat_ofNat, Nat.mod_eq_of_lt hn]
  have hd : (cbcState n din).defined 0x4000 n = true := defined_stored _ _ _ _ h
  have hi : (cbcState n din).defined 0x0030 16 = true :=
    defined_kept _ _ (defined_stored _ _ _ _ (bytesOf_length _ _).ge)
  have hk : (cbcState n din).defined 0x0020 16 = true :=
    defined_kept _ _ (defined_kept _ _ (defined_stored _ _ _ _ (bytesOf_length _ _).ge))
  have hs : (cbcState n din).defined 0x0200 256 = true :=
    defined_kept _ _ (defined_kept _ _ (defined_kept _ _ (defined_stored _ _ _ _ aesIsbox_length.ge)))
  have hb : (cbcState n din).defined 0x0100 256 = true :=
    defined_kept _ _ (defined_kept _ _ (defined_kept _ _ (defined_kept _ _ (defined_stored _ _ _ _ aesSbox_length.ge))))
  simp only [inputsDefined, hl, hd, hi, hk, hs, hb, Bool.and_self, and_self]

/-- CBC-E17's state, what CBC_ENC leaves of it, and CBC-D17's state: the ciphertext in DIN, LEN = OUTLEN = 32. -/
theorem witness_CbcRoundTrip :
    let s := cbcState 17 e17Plain
    let u := cbcState 32 e17Cipher
    ∃ t, inputsDefined .cbcEnc s = true ∧ inputsDefined .cbcDec u = true ∧ BufBytes.wf s.bufBytes.toNat = true ∧
      DistinctAt s 0x0100 ∧ s.len.toNat < s.bufBytes.toNat ∧
      exec .cbcEnc s = .next t ∧ u.bufBytes = s.bufBytes ∧ u.key = s.key ∧ u.iv = s.iv ∧ u.isbox = swap s.sbox ∧
      u.len = t.outLen ∧ u.din t.outLen.toNat = t.dout t.outLen.toNat := by
  have ht := test_cbcEnc
  simp only [after, exec_eq, Option.map_some, Option.some.injEq, Prod.mk.injEq] at ht
  have hd : (cbcState 32 e17Cipher).din 32 = e17Cipher := by
    have h := cbcState_din 32 e17Cipher
    rwa [e17Cipher_length] at h
  refine ⟨_, (cbcState_defined 17 e17Plain (bytesOf_length 17 _).ge (by decide)).1,
    (cbcState_defined 32 e17Cipher e17Cipher_length.ge (by decide)).2, rfl, ?_, by decide, exec_eq _ _, rfl,
    ?_, ?_, ?_, ?_, ?_⟩
  · rw [distinctAt_iff]
    have h : (cbcState 17 e17Plain).loadBlock 0x0100 256 = aesSbox := cbcState_sbox _ _
    rw [h]
    exact (bijective_iff_nodup _).mp aes_bijective
  · rw [cbcState_key, cbcState_key]
  · rw [cbcState_iv, cbcState_iv]
  · rw [cbcState_isbox, cbcState_sbox, test_swap_aes]
  · rw [ht.1]; rfl
  · rw [ht.1, show (32 : BitVec 16).toNat = 32 from rfl, hd, ht.2.1]

/-- The reset state, a command in flight, and one that has failed; each with its step. -/
theorem witness_StepKeepsLifecycle :
    Lifecycle (flying 0x43 []) ∧ (∃ t, step (flying 0x43 []) = .next t) ∧
    Lifecycle { State.reset with lastCmd := 0x43, doneFlag := true, err := true, errCode := 0x06, ovr := true } := by
  refine ⟨by decide, ⟨_, exec_eq .addRoundKey (flying 0x43 [])⟩, by decide⟩

/-- A state whose OUTLEN counts defined bytes of DOUT, with EXPKEY defined. -/
theorem witness_StepKeepsStorage :
    Storage { (holding (cells 0x0300 kx2 ++ cells 0x8000 e17Cipher)) with outLen := 17, schedule := [.write 0x4FFF 0x01] } ∧
    (∃ t, step { (holding (cells 0x0300 kx2 ++ cells 0x8000 e17Cipher)) with
      outLen := 17, schedule := [.write 0x4FFF 0x01] } = .next t) :=
  ⟨by decide +kernel, ⟨_, rfl⟩⟩

/-- A command behind a read and a write, completed by the unit's turn; and a byte that names none behind the same two,
completed with no event to come. -/
theorem witness_LatencyDoesNotMatter :
    let es : List Event := [.read 0x0001, .write 0x0003 0x11]
    (∀ e ∈ es, (∃ a, e = .read a) ∨ ∃ a v, e = .write a v) ∧
    ((flying 0x01 (es ++ [.complete, .read 0x0005])).busy = true ∧ UnitsTurn [.complete, .read 0x0005] ∧
      (flying 0x01 (es ++ [.complete, .read 0x0005])).schedule = es ++ [.complete, .read 0x0005] ∧
      decode (flying 0x01 (es ++ [.complete, .read 0x0005])).lastCmd = .ok .gfMul) ∧
    (flying 0x5A (es ++ [])).busy = true ∧ UnitsTurn [] ∧ (flying 0x5A (es ++ [])).schedule = es ++ [] ∧
      decode (flying 0x5A (es ++ [])).lastCmd = .error (.illegalCommand 0x5A) := by
  refine ⟨fun e he => ?_, by decide, by decide⟩
  simp only [List.mem_cons, List.not_mem_nil, or_false] at he
  rcases he with rfl | rfl
  · exact .inl ⟨_, rfl⟩
  · exact .inr ⟨_, _, rfl⟩

/-- One command in flight that no reset abandons, and one that a reset does. -/
theorem witness_EveryAcceptedCommandEnds :
    (flying 0x5A [.read 0x0001, .write 0x0000 0x01]).busy = true ∧ (flying 0x01 [.read 0x0001, .reset]).busy = true ∧
    (∃ t, core.run 2 (flying 0x01 [.read 0x0001, .reset]) = .next t ∧ t.busy = false ∧ t.doneFlag = false) :=
  ⟨rfl, rfl, _, rfl, rfl, rfl⟩

/-- An inverse pair (GF-8). -/
theorem witness_GinvIsTheInverse : (0x53 : Byte) ≠ 0x00 ∧ gmul 0x53 0xCA = 0x01 := by decide

theorem witness_AffineOutputBits : 0 < 8 ∧ 7 < 8 := by decide

end Sys2Proof.Tests
end

/-! The constant tables GFINV and MULk as the host reads them (R40): which item an address of them names, the byte
an idle and a busy read return there, and the obligation that follows. -/

namespace Sys2Proof.Machine

open Sys2Proof.Safety

/-- The address map on the constant tables, one page of 256 bytes each; it does not depend on BUF_BYTES (R22). -/
theorem itemAt_constTable {a : Nat} (h : IsConstTable a) (b : Nat) : itemAt b a =
    some (if a < 0x0500 then .gfinv else if a < 0x0600 then .mul2 else if a < 0x0700 then .mul3
      else if a < 0x0800 then .mul9 else if a < 0x0900 then .mul11 else if a < 0x0A00 then .mul13 else .mul14) := by
  obtain ⟨hlo, hhi⟩ := h
  rw [itemAt_eq]
  -- The 21 tests before GFINV's ask for an address below 0x0400.
  iterate 21 rw [if_neg (by omega)]
  rw [if_pos (show a < 0x0B00 by omega)]
  split_ifs <;> rfl

/-- An idle read of a constant table returns the field function's value (R40, R68). -/
theorem idleByte_constTable (s : State) {a : Nat} (h : IsConstTable a) : s.idleByte a = constTableByte a := by
  rw [State.idleByte, itemAt_constTable h, constTableByte]
  split_ifs <;> rfl

/-- A busy read of a constant table returns what an idle one does (R70). -/
theorem busyByte_constTable (s : State) {a : Nat} (h : IsConstTable a) : s.busyByte a = constTableByte a := by
  rw [State.busyByte, itemAt_constTable h, constTableByte]
  split_ifs <;> rfl

/-- A read of a constant table answers the field function's value, busy or idle. -/
theorem busRead_constTable_busData (s : State) {a : Nat} (h : IsConstTable a) :
    (s.busRead a).busData = some (constTableByte a) := by
  cases hb : s.busy with
  | false => rw [busRead_idle hb, State.answer_busData, idleByte_constTable s h]
  | true => rw [busRead_busy hb, State.nextDraw_busData, State.answer_busData, busyByte_constTable s h]

/-- Settles O17: the step is the read, and the read answers the table's byte. -/
theorem constantTablesHoldTheFieldFunctions : Obligations.ConstantTablesHoldTheFieldFunctions := by
  intro s a rest ha hs
  exact ⟨_, step_read hs, busRead_constTable_busData (s.setSchedule rest) ha⟩

end Sys2Proof.Machine

/-! The host's bus (20_memory.md R66 to R70): which item an address names, by the classes of addresses of the
statements; what a read and a write do at it, idle and busy; and the four obligations that follow. -/

namespace Sys2Proof.Machine

open Sys2Proof.Safety

/-! ### The address map, for a legal BUF_BYTES -/

/-- With the buffers at their greatest size, of two items of R22 one ends before the other begins. -/
theorem items_disjoint_at_greatest : ∀ it ∈ Item.all, ∀ it' ∈ Item.all,
    it = it' ∨ it.base + it.size 16384 ≤ it'.base ∨ it'.base + it'.size 16384 ≤ it.base := by decide

theorem Item.mem_all (it : Item) : it ∈ Item.all := by cases it <;> decide

/-- An item's size does not shrink as BUF_BYTES grows. -/
theorem Item.size_mono {b c : Nat} (h : b ≤ c) (it : Item) : it.size b ≤ it.size c := by
  cases it
  case din | dout => exact h
  all_goals exact Nat.le_refl _

/-- The address map finds exactly the item that holds the address: no other item overlaps it. -/
theorem itemAt_eq_some_iff {b a : Nat} (hb : BufBytes.wf b = true) {it : Item} :
    itemAt b a = some it ↔ it.base ≤ a ∧ a < it.base + it.size b := by
  refine ⟨holds_of_itemAt, fun h => ?_⟩
  have hle : b ≤ 16384 := by
    simp only [BufBytes.wf, Bool.and_eq_true, decide_eq_true_eq] at hb
    exact hb.2
  cases hf : itemAt b a with
  | none =>
    have hmiss := itemAt_none_iff.mp hf it it.mem_all
    simp [Item.holds, h] at hmiss
  | some it' =>
    have h' := holds_of_itemAt hf
    have hs := it.size_mono hle
    have hs' := it'.size_mono hle
    obtain heq | hlt | hgt := items_disjoint_at_greatest it it.mem_all it' it'.mem_all
    · rw [heq]
    · omega
    · omega

/-- A reserved address names no item (R60): every item of R22 lies below 0x000C or in one of the other classes. -/
theorem itemAt_reserved {s : State} {a : Nat} (h : IsReserved s a) : itemAt s.capacity a = none := by
  obtain ⟨hlo, hhost, hengine, htable⟩ := h
  refine Option.eq_none_iff_forall_ne_some.mpr fun it hit => ?_
  have hholds := holds_of_itemAt hit
  simp only [State.capacity] at hholds
  cases it <;> simp only [Item.base, Item.size] at hholds <;> omega

/-- An address of a data store of the host names a data store the host may write (R22). -/
theorem itemAt_hostStore {s : State} {a : Nat} (hb : BufBytes.wf s.bufBytes.toNat = true) (h : IsHostStore s a) :
    ∃ it, itemAt s.capacity a = some it ∧ it.hostWritable = true ∧ it.isStore = true := by
  have found (it : Item) (hw : it.hostWritable = true) (hs : it.isStore = true)
      (hlo : it.base ≤ a) (hhi : a < it.base + it.size s.bufBytes.toNat) :
      ∃ it, itemAt s.capacity a = some it ∧ it.hostWritable = true ∧ it.isStore = true :=
    ⟨it, (itemAt_eq_some_iff hb).mpr ⟨hlo, hhi⟩, hw, hs⟩
  obtain ⟨hlo, hhi⟩ | ⟨hlo, hhi⟩ | ⟨hlo, hhi⟩ | ⟨hlo, hhi⟩ := h
  · obtain h | h := Nat.lt_or_ge a 0x0018
    · exact found .matrix rfl rfl hlo h
    · exact found .const rfl rfl h (Nat.lt_succ_of_le hhi)
  · obtain h | h := Nat.lt_or_ge a 0x0030
    · exact found .key rfl rfl hlo h
    obtain h' | h' := Nat.lt_or_ge a 0x0040
    · exact found .iv rfl rfl h h'
    · exact found .blk rfl rfl h' (Nat.lt_succ_of_le hhi)
  · obtain h | h := Nat.lt_or_ge a 0x0200
    · exact found .sbox rfl rfl hlo h
    · exact found .isbox rfl rfl h (Nat.lt_succ_of_le hhi)
  · exact found .din rfl rfl hlo hhi

/-- The registers the host may only read: STATUS, ERRCODE, RESULT, OUTLEN and BUFSZ (R22). -/
def readOnlyRegisters : List Nat := [0x0001, 0x0002, 0x0005, 0x0008, 0x0009, 0x000A, 0x000B]

/-- An address of a data store of the engine, of a constant table or of a read-only register names an item the host
may not write (R22). -/
theorem itemAt_readOnly {s : State} {a : Nat} (hb : BufBytes.wf s.bufBytes.toNat = true)
    (h : IsEngineStore s a ∨ IsConstTable a ∨ a ∈ readOnlyRegisters) :
    ∃ it, itemAt s.capacity a = some it ∧ it.hostWritable = false := by
  obtain (⟨hlo, hhi⟩ | ⟨hlo, hhi⟩) | h | h := h
  · exact ⟨.expkey, (itemAt_eq_some_iff hb).mpr ⟨hlo, Nat.lt_succ_of_le hhi⟩, rfl⟩
  · exact ⟨.dout, (itemAt_eq_some_iff hb).mpr ⟨hlo, hhi⟩, rfl⟩
  · exact ⟨_, itemAt_constTable h _, by split_ifs <;> rfl⟩
  · simp only [readOnlyRegisters, List.mem_cons, List.not_mem_nil, or_false] at h
    obtain rfl | rfl | rfl | rfl | rfl | rfl | rfl := h <;> exact ⟨_, itemAt_eq _ _, rfl⟩

/-! ### The bytes of a 16-bit register (R66) -/

theorem wordByte_zero_toNat (w : BitVec 16) : (wordByte w 0).toNat = w.toNat % 256 := by
  simp [wordByte]

theorem wordByte_one_toNat (w : BitVec 16) : (wordByte w 1).toNat = w.toNat / 256 := by
  have hw := w.isLt
  simp only [wordByte, BitVec.toNat_setWidth, BitVec.toNat_ushiftRight, Nat.shiftRight_eq_div_pow]
  omega

/-- Two bytes side by side as a number. -/
theorem append_byte_toNat (hi lo : Byte) : (hi ++ lo : BitVec 16).toNat = hi.toNat * 256 + lo.toNat := by
  rw [BitVec.toNat_append, ← Nat.shiftLeft_add_eq_or_of_lt lo.isLt, Nat.shiftLeft_eq]

/-- A new byte 0 leaves bits 15:8 of the register. -/
theorem setWordByte_zero (w : BitVec 16) (v : Byte) :
    setWordByte w 0 v = BitVec.ofNat 16 (w.toNat / 256 * 256 + v.toNat) := by
  rw [← wordByte_one_toNat, ← append_byte_toNat, BitVec.ofNat_toNat, BitVec.setWidth_eq]
  rfl

/-- A new byte 1 leaves bits 7:0 of the register. -/
theorem setWordByte_one (w : BitVec 16) (v : Byte) :
    setWordByte w 1 v = BitVec.ofNat 16 (v.toNat * 256 + w.toNat % 256) := by
  rw [← wordByte_zero_toNat, ← append_byte_toNat, BitVec.ofNat_toNat, BitVec.setWidth_eq]
  rfl

/-- Bit `i` of a byte assembled from its bits, bit 0 first. -/
theorem byteOfBits_getLsbD (bs : List Bool) {i : Nat} (h : i < 8) : (byteOfBits bs).getLsbD i = bs.getD i false := by
  induction bs generalizing i with
  | nil => simp [byteOfBits]
  | cons b bs ih =>
    cases i with
    | zero => cases b <;> simp [byteOfBits]
    | succ j =>
      have hj : j < 8 := Nat.lt_of_succ_lt h
      cases b <;> simpa [byteOfBits, h, hj] using ih hj

/-! ### What a host transaction does -/

section
variable {s : State} {a : Addr} {v : Byte} {rest : List Event} {it : Item}

/-- An idle read answers and changes nothing else. -/
theorem step_read_idle (hb : s.busy = false) (hs : s.schedule = .read a :: rest) :
    step s = .next { s with schedule := rest, busData := some (s.idleByte a.toNat) } := by
  rw [step_read hs, busRead_idle (by exact hb)]; rfl

/-- A busy read answers, and uses up a draw. -/
theorem step_read_busy (hb : s.busy = true) (hs : s.schedule = .read a :: rest) : step s =
    .next { s with schedule := rest, busData := some (s.busyByte a.toNat), draws := s.draws + 1 } := by
  rw [step_read hs, busRead_busy (by exact hb)]; rfl

/-- A busy write is dropped. -/
theorem step_write_busy (hb : s.busy = true) (hs : s.schedule = .write a v :: rest) :
    step s = .next { s with ovr := true, schedule := rest, draws := s.draws + 1 } := by
  rw [step_write hs, busWrite_busy (by exact hb)]; rfl

/-- An idle write to a reserved address changes nothing. -/
theorem step_write_no_item (hb : s.busy = false) (hs : s.schedule = .write a v :: rest)
    (hi : itemAt s.capacity a.toNat = none) :
    step s = .next { s with schedule := rest, draws := s.draws + 1 } := by
  rw [step_write hs, busWrite_idle (by exact hb), show itemAt (s.setSchedule rest).capacity a.toNat = none from hi]
  rfl

/-- An idle write to an item writes the byte of it that the address names. -/
theorem step_write_item (hb : s.busy = false) (hs : s.schedule = .write a v :: rest)
    (hi : itemAt s.capacity a.toNat = some it) :
    step s = .next ((s.setSchedule rest).setItemByte it (a.toNat - it.base) v).nextDraw := by
  rw [step_write hs, busWrite_idle (by exact hb), show itemAt (s.setSchedule rest).capacity a.toNat = some it from hi]

/-- The same with the address as a number. -/
theorem step_write_at {n : Nat} (hb : s.busy = false) (hs : s.schedule = .write a v :: rest) (ha : a.toNat = n)
    (hi : itemAt s.capacity n = some it) :
    step s = .next ((s.setSchedule rest).setItemByte it (n - it.base) v).nextDraw := by
  subst ha
  exact step_write_item hb hs hi

/-- An idle write to an item the host may not write changes nothing. -/
theorem step_write_readOnly (hb : s.busy = false) (hs : s.schedule = .write a v :: rest)
    (hi : itemAt s.capacity a.toNat = some it) (hw : it.hostWritable = false) :
    step s = .next { s with schedule := rest, draws := s.draws + 1 } := by
  rw [step_write_item hb hs hi, State.setItemByte_readOnly _ _ _ _ hw]; rfl

/-- An idle write to a data store of the host stores the byte at the address. -/
theorem step_write_store (hb : s.busy = false) (hs : s.schedule = .write a v :: rest)
    (hi : itemAt s.capacity a.toNat = some it) (hw : it.hostWritable = true) (hst : it.isStore = true) : step s =
    .next { s with mem := Memory.write s.mem a.toNat v, schedule := rest, draws := s.draws + 1 } := by
  rw [step_write_item hb hs hi, State.setItemByte_store _ _ _ _ hw hst,
    Nat.add_sub_cancel' (holds_of_itemAt hi).1]
  rfl

end

/-- A reserved address reads as 0x00, idle or busy (R68, R70). -/
theorem idleByte_reserved {s : State} {a : Nat} (h : IsReserved s a) : s.idleByte a = 0x00 := by
  rw [State.idleByte, itemAt_reserved h]

theorem busyByte_reserved {s : State} {a : Nat} (h : IsReserved s a) : s.busyByte a = 0x00 := by
  rw [State.busyByte, itemAt_reserved h]

/-- A busy read of an item. -/
theorem busyByte_item {s : State} {a : Nat} {it : Item} (h : itemAt s.capacity a = some it) :
    s.busyByte a = s.busyItemByte it (a - it.base) := by
  rw [State.busyByte, h]

/-! ### Idle reads repeat (R67) -/

/-- What an idle read returns does not depend on the events to come or on what the bus last returned. -/
theorem idleByte_frame (s : State) (es : List Event) (d : Option Byte) (a : Nat) :
    ({ s with schedule := es, busData := d } : State).idleByte a = s.idleByte a := by
  rw [State.idleByte, State.idleByte, State.capacity, State.capacity]
  cases itemAt s.bufBytes.toNat a with
  | none => rfl
  | some it => cases it <;> rfl

/-- While idle, a read or the command unit's turn changes at most what the bus last returned. -/
theorem step_idle_read_or_turn {s : State} {e : Event} {es : List Event} (hb : s.busy = false)
    (he : e = .complete ∨ ∃ b, e = .read b) (hs : s.schedule = e :: es) :
    ∃ d, step s = .next { s with schedule := es, busData := d } := by
  obtain rfl | ⟨b, rfl⟩ := he
  · exact ⟨s.busData, by rw [step_complete hs, unitTurn_idle (by exact hb)]; rfl⟩
  · exact ⟨_, step_read_idle hb hs⟩

/-- A run that begins with a step continues from its next state. -/
theorem run_succ_of_step {M : Host.Core} {s t : M.State} (h : M.step s = .next t) (k : Nat) :
    M.run (k + 1) s = M.run k t := by
  rw [Host.Core.run, h]

/-- The same of this machine, whose step is `step`. -/
theorem core_run_succ {s t : State} (h : step s = .next t) (k : Nat) : core.run (k + 1) s = core.run k t :=
  run_succ_of_step (M := core) h k

/-- While idle, a run of reads and the command unit's turns changes at most what the bus last returned. -/
theorem run_idle_reads_and_turns (es : List Event) (he : ∀ e ∈ es, e = .complete ∨ ∃ b, e = .read b) :
    ∀ {s : State} {later : List Event} (k : Nat), s.busy = false → s.schedule = es ++ later →
    ∃ d, core.run (es.length + k) s = core.run k { s with schedule := later, busData := d } := by
  induction es with
  | nil =>
    intro s later k _ hs
    obtain rfl : s.schedule = later := hs
    exact ⟨s.busData, by rw [List.length_nil, Nat.zero_add]⟩
  | cons e es ih =>
    intro s later k hb hs
    obtain ⟨d, hd⟩ := step_idle_read_or_turn (es := es ++ later) hb (he e List.mem_cons_self) hs
    obtain ⟨d', hd'⟩ := ih (fun e' h => he e' (List.mem_cons_of_mem _ h))
      (s := { s with schedule := es ++ later, busData := d }) k hb rfl
    rw [List.length_cons, Nat.add_right_comm]
    exact ⟨d', (core_run_succ hd _).trans hd'⟩

/-! ### The obligations -/

/-- Settles O12: a read answers and nothing else, and the events between two idle reads leave the byte read as it
was. -/
theorem readsHaveNoSideEffects : Obligations.ReadsHaveNoSideEffects := by
  refine ⟨fun s a rest hs => ?_, fun s a es rest hb hes hs => ?_⟩
  · obtain hb | hb := Bool.eq_false_or_eq_true s.busy
    · exact ⟨_, _, step_read_busy hb hs⟩
    · exact ⟨_, _, step_read_idle hb hs⟩
  · have hfirst := step_read_idle hb hs
    obtain ⟨d, hd⟩ := run_idle_reads_and_turns es hes (s := { s with
      schedule := es ++ .read a :: rest, busData := some (s.idleByte a.toNat) }) 1 hb rfl
    have hlast := step_read_idle (s := { s with schedule := .read a :: rest, busData := d }) hb rfl
    rw [idleByte_frame] at hlast
    refine ⟨_, { s with schedule := rest, busData := some (s.idleByte a.toNat) }, hfirst, ?_, rfl, rfl⟩
    exact (core_run_succ hfirst _).trans (hd.trans (core_run_succ hlast 0))

/-- Settles O14: each kind of address names no item, a read-only one, a data store, or one register. -/
theorem idleAccessOutcomes : Obligations.IdleAccessOutcomes := by
  refine fun s a v rest hb hbuf => ⟨fun hs hr => ?_, fun hs => ⟨s.draws + 1, ?_, ?_, ?_, ?_, ?_, ?_, ?_⟩⟩
  · rw [step_read_idle hb hs, idleByte_reserved hr]
  · rintro (hr | hro)
    · exact step_write_no_item hb hs (itemAt_reserved hr)
    · obtain ⟨it, hi, hw⟩ := itemAt_readOnly hbuf hro
      exact step_write_readOnly hb hs hi hw
  · intro hst
    obtain ⟨it, hi, hw, his⟩ := itemAt_hostStore hbuf hst
    exact ⟨_, step_write_store hb hs hi hw his, fun b => Memory.read_write _ _ _ _⟩
  · exact fun ha => step_write_at hb hs ha (it := .opa) rfl
  · exact fun ha => step_write_at hb hs ha (it := .opb) rfl
  · rw [← setWordByte_zero]
    exact fun ha => step_write_at hb hs ha (it := .len) rfl
  · rw [← setWordByte_one]
    exact fun ha => step_write_at hb hs ha (it := .len) rfl
  · exact fun ha => step_write_at hb hs ha (it := .cmd) rfl

/-- The bits of STATUS that are defined with BUSY = 1 (R70). -/
theorem busyStatusByte_bits (s : State) :
    s.busyStatusByte.getLsbD 0 = true ∧ s.busyStatusByte.getLsbD 1 = false ∧ s.busyStatusByte.getLsbD 2 = false ∧
      s.busyStatusByte.getLsbD 3 = s.ovr ∧ s.busyStatusByte.getLsbD 6 = false ∧
      s.busyStatusByte.getLsbD 7 = false := by
  have bit (i : Nat) (h : i < 8) := byteOfBits_getLsbD [true, false, false, s.ovr, (Config.busyBij s.draws).getLsbD 0,
    (Config.busyBij s.draws).getLsbD 1, false, false] h
  exact ⟨bit 0 (by decide), bit 1 (by decide), bit 2 (by decide), bit 3 (by decide), bit 6 (by decide),
    bit 7 (by decide)⟩

/-- Settles O16: a busy read answers the busy byte of the item the address names. -/
theorem busyReadsReturnWhatIsDefined : Obligations.BusyReadsReturnWhatIsDefined := by
  refine fun s a rest hb _ hs => ⟨_, _, step_read_busy hb hs, ?_, ?_, ?_, ?_, ?_, busyByte_constTable s,
    busyByte_reserved⟩ <;> intro ha <;> rw [ha]
  · exact busyByte_item (it := .cmd) rfl
  · rw [busyByte_item (it := .status) rfl]
    exact busyStatusByte_bits s
  · exact busyByte_item (it := .errcode) rfl
  · rw [busyByte_item (it := .bufsz) rfl]
    exact wordByte_zero_toNat s.bufBytes
  · rw [busyByte_item (it := .bufsz) rfl]
    exact wordByte_one_toNat s.bufBytes

/-- Settles O15: the step is the dropped write. -/
theorem busyWriteIsDropped : Obligations.BusyWriteIsDropped :=
  fun _ _ _ _ hb hs => ⟨_, step_write_busy hb hs⟩

end Sys2Proof.Machine

/-! The command byte (30_encoding.md R92, R94, R95): which bytes name no command, what a host write to CMD does, how a
byte that names no command completes, and the two obligations that follow. -/

namespace Sys2Proof.Machine

open Sys2Proof.Safety

/-! ### The bytes that name no command -/

/-- A byte decodes to a command exactly when R94's table lists it. -/
theorem exists_decode_ok_iff {opc : Byte} : (∃ i, decode opc = .ok i) ↔ opc ∈ opcodeTable.map Prod.fst := by
  have hlisted : (opcodeTable.lookup opc).isSome = true ↔ opc ∈ opcodeTable.map Prod.fst := by
    simp only [List.lookup_isSome_iff, beq_iff_eq, List.mem_map, eq_comm (a := opc)]
  rw [← hlisted, decode]
  cases opcodeTable.lookup opc <;> simp

/-- The six ranges of R95. -/
def inIllegalRange (n : Nat) : Bool :=
  (0x09 ≤ n && n ≤ 0x0F) || (0x13 ≤ n && n ≤ 0x1F) || (0x23 ≤ n && n ≤ 0x2F) ||
    (0x32 ≤ n && n ≤ 0x3F) || (0x47 ≤ n && n ≤ 0x4F) || (0x50 ≤ n && n ≤ 0xFF)

/-- The ranges hold 232 of the 256 bytes. -/
theorem inIllegalRange_count : ((List.range 256).filter inIllegalRange).length = 232 := by rfl

/-- No row of R94's table lies in a range. -/
theorem inIllegalRange_of_mem_opcodeTable :
    ∀ opc ∈ opcodeTable.map Prod.fst, inIllegalRange opc.toNat = false := by decide

/-- The ranges leave only the bytes of R94's table. -/
theorem mem_opcodeTable_of_not_inIllegalRange :
    ∀ opc : Byte, inIllegalRange opc.toNat = false → opc ∈ opcodeTable.map Prod.fst := by decide

/-- A byte lies in the ranges of R95 exactly when it decodes to no command. -/
theorem inIllegalRange_iff {opc : Byte} : inIllegalRange opc.toNat = true ↔ ∀ i, decode opc ≠ .ok i := by
  rw [← not_exists, exists_decode_ok_iff, ← Bool.not_eq_false, not_iff_not]
  exact ⟨mem_opcodeTable_of_not_inIllegalRange opc, inIllegalRange_of_mem_opcodeTable opc⟩

/-! ### Issue and completion -/

section
variable {s : State} {v : Byte} {later : List Event}

/-- A host write to CMD while idle is the acceptance of the byte, whichever it is. -/
theorem step_issue (hb : s.busy = false) (hs : s.schedule = .write 0x0000 v :: later) :
    step s = .next ((s.setSchedule later).accept v).nextDraw :=
  step_write_at hb hs rfl (it := .cmd) rfl

/-- When the command unit's turn is next, a step is that turn. -/
theorem step_of_unitsTurn (h : UnitsTurn s.schedule) : step s = unitTurn (s.setSchedule s.schedule.tail) := by
  obtain hnil | hhead := h
  · rw [step_nil hnil, hnil, List.tail_nil, ← hnil]; rfl
  · exact step_complete (List.eq_cons_of_mem_head? hhead)

/-- A byte in flight that names no command completes with IllegalCommand at the command unit's turn. -/
theorem step_illegalCommand (hb : s.busy = true) (hd : ∀ i, decode s.lastCmd ≠ .ok i) (h : UnitsTurn s.schedule) :
    step s = .next ((s.setSchedule s.schedule.tail).failWith .illegalCommand) := by
  rw [step_of_unitsTurn h, unitTurn_busy (by exact hb)]
  obtain ⟨i, hi, _⟩ | ⟨_, hrun⟩ := runCommand_cases (s.setSchedule s.schedule.tail)
  · exact absurd hi (hd i)
  · exact hrun

end

/-! ### The obligations -/

/-- Settles O3: the ranges are the complement of R94's table, the write accepts the byte, and the unit's turn fails
it. -/
theorem illegalByteCompletesWithIllegalCommand : Obligations.IllegalByteCompletesWithIllegalCommand := by
  refine ⟨inIllegalRange_count,
    fun opc h => exists_decode_ok_iff.mpr (mem_opcodeTable_of_not_inIllegalRange opc h),
    fun s v later hb hv hl hs => ⟨_, s.draws + 1, step_issue hb hs, ?_⟩⟩
  exact step_illegalCommand (s := ((s.setSchedule later).accept v).nextDraw) rfl (inIllegalRange_iff.mp hv) hl

/-- Settles O4: an idle write to CMD is the acceptance, a busy one is dropped. -/
theorem anyByteIsAccepted : Obligations.AnyByteIsAccepted := by
  refine fun s v later hs => ⟨fun hb => ⟨s.draws + 1, _, step_issue hb hs, rfl, fun hd hl => ?_⟩,
    fun hb => ⟨s.draws + 1, step_write_busy hb hs⟩⟩
  exact ⟨_, step_illegalCommand (s := ((s.setSchedule later).accept v).nextDraw) rfl hd hl, rfl⟩

end Sys2Proof.Machine

/-! GF(2^8) arithmetic (40_gf_arithmetic.md R110, R111, R129): the laws of gmul, the inverse of every nonzero byte, and
the GF commands. `gmul` is additive in both arguments and commutes with `xtime`; every byte is built from 1 by XOR and
`xtime`, so the laws of a commutative ring follow by induction on a byte. -/

namespace Sys2Proof.Machine

open Sys2Proof.Safety

/-! ### The doubling and the loop of R110 -/

/-- The doubling in 8 bits: the reduction by 0x11B leaves 0x1B of its 9 bits. -/
theorem xtime_eq (a : Byte) : xtime a = a <<< 1 ^^^ bif a.getLsbD 7 then 0x1B else 0x00 := by
  revert a
  decide +kernel

/-- A byte taken under the XOR of two bits. -/
theorem cond_bne_eq_xor (p q : Bool) (v : Byte) :
    (bif p ^^ q then v else 0x00) = (bif p then v else 0x00) ^^^ bif q then v else 0x00 := by
  cases p <;> cases q <;> simp

/-- The XOR of two bytes taken under one bit. -/
theorem cond_xor_eq_xor (p : Bool) (v w : Byte) :
    (bif p then v ^^^ w else 0x00) = (bif p then v else 0x00) ^^^ bif p then w else 0x00 := by
  cases p <;> simp

theorem xtime_xor (a b : Byte) : xtime (a ^^^ b) = xtime a ^^^ xtime b := by
  rw [xtime_eq, xtime_eq, xtime_eq, BitVec.shiftLeft_xor_distrib, BitVec.getLsbD_xor, cond_bne_eq_xor]
  ac_rfl

/-- A byte is the doubling of its upper seven bits, and its bit 0. -/
theorem eq_xtime_ushiftRight_xor (b : Byte) : b = xtime (b >>> 1) ^^^ bif b.getLsbD 0 then 0x01 else 0x00 := by
  revert b
  decide +kernel

/-- Every byte is built from 1 by XOR and `xtime`. -/
theorem byte_induction {P : Byte → Prop} (one : P 0x01) (xor : ∀ a b, P a → P b → P (a ^^^ b))
    (double : ∀ a, P a → P (xtime a)) (b : Byte) : P b := by
  have zero : P 0x00 := xor _ _ one one
  by_cases hb : b = 0x00
  · rwa [hb]
  · have hlt : (b >>> 1).toNat < b.toNat := by
      have hpos : b.toNat ≠ 0 := fun h => hb (BitVec.eq_of_toNat_eq h)
      rw [BitVec.toNat_ushiftRight, Nat.shiftRight_eq_div_pow]
      omega
    have hbit : P (bif b.getLsbD 0 then 0x01 else 0x00) := by
      cases b.getLsbD 0
      · exact zero
      · exact one
    rw [eq_xtime_ushiftRight_xor b]
    exact xor _ _ (double _ (byte_induction one xor double (b >>> 1))) hbit
termination_by b.toNat

/-- One round of the loop: the accumulator takes in `a` when bit 0 of `b` is set. -/
theorem gmulLoop_succ (n : Nat) (a b p : Byte) :
    gmulLoop (n + 1) a b p = gmulLoop n (xtime a) (b >>> 1) (p ^^^ bif b.getLsbD 0 then a else 0x00) := by
  rw [gmulLoop]
  cases b.getLsbD 0 <;> simp

theorem gmulLoop_xor_left (n : Nat) (a a' b p p' : Byte) :
    gmulLoop n (a ^^^ a') b (p ^^^ p') = gmulLoop n a b p ^^^ gmulLoop n a' b p' := by
  induction n generalizing a a' b p p' with
  | zero => rfl
  | succ n ih =>
    rw [gmulLoop_succ, gmulLoop_succ, gmulLoop_succ, ← ih, ← xtime_xor, cond_xor_eq_xor]
    congr 1
    ac_rfl

theorem gmulLoop_xor_right (n : Nat) (a b b' p p' : Byte) :
    gmulLoop n a (b ^^^ b') (p ^^^ p') = gmulLoop n a b p ^^^ gmulLoop n a b' p' := by
  induction n generalizing a b b' p p' with
  | zero => rfl
  | succ n ih =>
    rw [gmulLoop_succ, gmulLoop_succ, gmulLoop_succ, ← ih, ← BitVec.ushiftRight_xor_distrib, BitVec.getLsbD_xor,
      cond_bne_eq_xor]
    congr 1
    ac_rfl

theorem gmulLoop_xtime_left (n : Nat) (a b p : Byte) :
    gmulLoop n (xtime a) b (xtime p) = xtime (gmulLoop n a b p) := by
  induction n generalizing a b p with
  | zero => rfl
  | succ n ih =>
    rw [gmulLoop, gmulLoop, ← ih, apply_ite xtime, xtime_xor]

/-! ### The laws of gmul -/

theorem gmul_xor_left (a a' b : Byte) : gmul (a ^^^ a') b = gmul a b ^^^ gmul a' b :=
  gmulLoop_xor_left 8 a a' b 0x00 0x00

theorem gmul_xor_right (a b b' : Byte) : gmul a (b ^^^ b') = gmul a b ^^^ gmul a b' :=
  gmulLoop_xor_right 8 a b b' 0x00 0x00

theorem gmul_xtime_left (a b : Byte) : gmul (xtime a) b = xtime (gmul a b) :=
  gmulLoop_xtime_left 8 a b 0x00

theorem gmul_one_left (b : Byte) : gmul 0x01 b = b := by
  revert b
  decide +kernel

theorem gmul_one_right (a : Byte) : gmul a 0x01 = a := by
  simp [gmul, gmulLoop]

theorem gmul_zero_left (b : Byte) : gmul 0x00 b = 0x00 := by
  simpa using gmul_xor_left 0x00 0x00 b

theorem gmul_xtime_right (a b : Byte) : gmul a (xtime b) = xtime (gmul a b) := by
  induction a using byte_induction with
  | one => rw [gmul_one_left, gmul_one_left]
  | xor a a' ih ih' => rw [gmul_xor_left, gmul_xor_left, ih, ih', xtime_xor]
  | double a ih => rw [gmul_xtime_left, gmul_xtime_left, ih]

theorem gmul_comm (a b : Byte) : gmul a b = gmul b a := by
  induction b using byte_induction with
  | one => rw [gmul_one_left, gmul_one_right]
  | xor b b' ih ih' => rw [gmul_xor_left, gmul_xor_right, ih, ih']
  | double b ih => rw [gmul_xtime_left, gmul_xtime_right, ih]

theorem gmul_assoc (a b c : Byte) : gmul (gmul a b) c = gmul a (gmul b c) := by
  induction a using byte_induction with
  | one => rw [gmul_one_left, gmul_one_left]
  | xor a a' ih ih' => rw [gmul_xor_left, gmul_xor_left, gmul_xor_left, ih, ih']
  | double a ih => rw [gmul_xtime_left, gmul_xtime_left, gmul_xtime_left, ih]

theorem gmul_zero_right (a : Byte) : gmul a 0x00 = 0x00 := by
  rw [gmul_comm, gmul_zero_left]

/-- With both factors of a product of products exchanged. -/
theorem gmul_gmul_gmul_comm (a b c d : Byte) : gmul (gmul a b) (gmul c d) = gmul (gmul a c) (gmul b d) := by
  rw [gmul_assoc, gmul_assoc, ← gmul_assoc b, ← gmul_assoc c, gmul_comm b c]

/-! ### The nonzero bytes have inverses

Squaring keeps XOR and products, and eight squarings are the identity. So e = x^255 has e x = x^256 = x; then e e = e,
which leaves e = 1 for a nonzero x. -/

/-- The square of a byte. -/
def gsquare (a : Byte) : Byte := gmul a a

/-- `x^(2^n - 1)`. -/
def onesPower (x : Byte) : Nat → Byte
  | 0 => 0x01
  | n + 1 => gmul (gsquare (onesPower x n)) x

theorem gsquare_xor : Function.Semiconj₂ gsquare (· ^^^ ·) (· ^^^ ·) := by
  intro a b
  have hcross : gmul b a = gmul a b := gmul_comm b a
  calc gmul (a ^^^ b) (a ^^^ b)
      = gmul a a ^^^ (gmul a b ^^^ gmul a b) ^^^ gmul b b := by
        rw [gmul_xor_left, gmul_xor_right, gmul_xor_right, hcross]; ac_rfl
    _ = gmul a a ^^^ gmul b b := by rw [BitVec.xor_self, BitVec.xor_zero]

theorem gsquare_gmul : Function.Semiconj₂ gsquare gmul gmul :=
  fun a b => gmul_gmul_gmul_comm a b a b

theorem xtime_eq_gmul (a : Byte) : xtime a = gmul 0x02 a := by
  rw [show (0x02 : Byte) = xtime 0x01 by decide, gmul_xtime_left, gmul_one_left]

/-- x^256 = x for every byte. -/
theorem gsquare_iterate_eight (x : Byte) : gsquare^[8] x = x := by
  induction x using byte_induction with
  | one =>
    have hone : gsquare 0x01 = 0x01 := gmul_one_left 0x01
    exact Function.iterate_fixed hone 8
  | xor a b iha ihb => rw [gsquare_xor.iterate 8 a b, iha, ihb]
  | double a ih =>
    have htwo : gsquare^[8] 0x02 = 0x02 := by decide +kernel
    rw [xtime_eq_gmul, gsquare_gmul.iterate 8, htwo, ih]

theorem gmul_onesPower (x : Byte) (n : Nat) : gmul (onesPower x n) x = gsquare^[n] x := by
  induction n with
  | zero => exact gmul_one_left x
  | succ n ih => rw [onesPower, gmul_assoc, Function.iterate_succ_apply', ← ih, gsquare_gmul]; rfl

/-- 0 and 1 are the only bytes that are their own square. -/
theorem eq_zero_or_one_of_gsquare_eq_self : ∀ e : Byte, gsquare e = e → e = 0x00 ∨ e = 0x01 := by
  decide +kernel

/-- x^255 = 1 for every nonzero byte. -/
theorem onesPower_eight {x : Byte} (hx : x ≠ 0x00) : onesPower x 8 = 0x01 := by
  have hfix : gmul (onesPower x 8) x = x := (gmul_onesPower x 8).trans (gsquare_iterate_eight x)
  have hidem : gsquare (onesPower x 8) = onesPower x 8 :=
    calc gmul (onesPower x 8) (gmul (gsquare (onesPower x 7)) x)
        = gmul (gsquare (onesPower x 7)) (gmul (onesPower x 8) x) := by
          rw [← gmul_assoc, gmul_comm (onesPower x 8), gmul_assoc]
      _ = onesPower x 8 := by rw [hfix]; rfl
  obtain hzero | hone := eq_zero_or_one_of_gsquare_eq_self _ hidem
  · rw [hzero, gmul_zero_left] at hfix
    exact absurd hfix.symm hx
  · exact hone

/-- Every nonzero byte has an inverse: x^254. -/
theorem exists_gmul_eq_one {x : Byte} (hx : x ≠ 0x00) : ∃ y, gmul x y = 0x01 :=
  ⟨gsquare (onesPower x 7), (gmul_comm _ _).trans (onesPower_eight hx)⟩

/-- An inverse is unique. -/
theorem eq_of_gmul_eq_one {x y z : Byte} (hy : gmul x y = 0x01) (hz : gmul x z = 0x01) : y = z :=
  calc y = gmul (gmul x z) y := by rw [hz, gmul_one_left]
    _ = gmul (gmul x y) z := by rw [gmul_assoc, gmul_comm z, ← gmul_assoc]
    _ = z := by rw [hy, gmul_one_left]

/-! ### The search of R111 -/

/-- The search finds an inverse where one of the bytes it tries is one. -/
theorem gmul_ginvSearch {x : Byte} {n k : Nat} (hk : 1 ≤ k) (hkn : k ≤ n) (h : gmul x (BitVec.ofNat 8 k) = 0x01) :
    gmul x (ginvSearch x n) = 0x01 := by
  induction n with
  | zero => omega
  | succ n ih =>
    rw [ginvSearch]
    split
    case isTrue hfound => exact hfound
    case isFalse hmiss =>
      have hne : k ≠ n + 1 := fun he => hmiss (he ▸ h)
      exact ih (by omega)

theorem ginv_zero : ginv 0x00 = 0x00 := rfl

theorem gmul_ginv {x : Byte} (hx : x ≠ 0x00) : gmul x (ginv x) = 0x01 := by
  obtain ⟨y, hy⟩ := exists_gmul_eq_one hx
  have hpos : y.toNat ≠ 0 := by
    intro h
    rw [show y = 0x00 from BitVec.eq_of_toNat_eq h, gmul_zero_right] at hy
    exact absurd hy (by decide)
  rw [ginv, if_neg hx]
  refine gmul_ginvSearch (k := y.toNat) (by omega) (by omega) ?_
  rwa [BitVec.ofNat_toNat, BitVec.setWidth_eq]

theorem ginv_ne_zero {x : Byte} (hx : x ≠ 0x00) : ginv x ≠ 0x00 := by
  intro h
  have hone := gmul_ginv hx
  rw [h, gmul_zero_right] at hone
  exact absurd hone (by decide)

theorem ginv_ginv (x : Byte) : ginv (ginv x) = x := by
  by_cases hx : x = 0x00
  · rw [hx, ginv_zero, ginv_zero]
  · exact eq_of_gmul_eq_one (gmul_ginv (ginv_ne_zero hx)) ((gmul_comm _ _).trans (gmul_ginv hx))

/-! ### The GF commands -/

/-- A command whose outcome is a write to RESULT succeeds with it and changes nothing else. -/
theorem exec_of_outcome_setResult {i : Instr} {s : State} {v : Byte} (h : outcome i s = .ok (s.setResult v)) :
    ∃ t, exec i s = .next t ∧ Succeeded s t ∧ t.result = v ∧ t.outLen = s.outLen ∧ t.mem = s.mem :=
  ⟨(s.setResult v).succeed, by rw [exec_eq, h]; rfl, by simp [Succeeded, Kept], rfl, rfl, rfl⟩

/-! ### The obligations -/

/-- Settles O26: the search finds the inverse that Fermat gives, and inverses are unique. -/
theorem ginvIsTheInverse : Obligations.GinvIsTheInverse :=
  ⟨ginv_zero, fun _ hx => ⟨gmul_ginv hx, fun _ hy => eq_of_gmul_eq_one hy (gmul_ginv hx)⟩, ginv_ginv⟩

/-- Settles O23: the outcome of each is a write to RESULT; NOP's writes RESULT back. -/
theorem gfCommandsWriteResult : Obligations.GfCommandsWriteResult := fun _ =>
  ⟨exec_of_outcome_setResult rfl, exec_of_outcome_setResult rfl, exec_of_outcome_setResult rfl,
    exec_of_outcome_setResult rfl, exec_of_outcome_setResult rfl, exec_of_outcome_setResult rfl,
    exec_of_outcome_setResult rfl, exec_of_outcome_setResult rfl, exec_of_outcome_setResult rfl⟩

end Sys2Proof.Machine

/-! S-box generation (41_sbox.md R140 to R146): the affine map bit by bit and as a map of vectors over GF(2), a 256-byte
table as a map of bytes to bytes, the pass of Swap, and the five obligations that follow. A table is bijective exactly
when its map is injective, so what is said of tables is a fact about maps of a finite type. -/

namespace Sys2Proof.Machine

/-! ### A table as a map of bytes -/

/-- A byte looked up in a table, which is what `substitute` does to each byte of a block. -/
def tableMap (t : List Byte) (v : Byte) : Byte := t.getD v.toNat 0

/-- The indices below 256 are the values of the bytes. -/
theorem forall_byte_toNat_iff {P : Nat → Prop} : (∀ v : Byte, P v.toNat) ↔ ∀ x < 256, P x := by
  refine ⟨fun h x hx => ?_, fun h v => h v.toNat v.isLt⟩
  have hP := h (BitVec.ofNat 8 x)
  rwa [BitVec.toNat_ofNat, Nat.mod_eq_of_lt hx] at hP

theorem byte_ofNat_toNat (v : Byte) : BitVec.ofNat 8 v.toNat = v := by
  rw [BitVec.ofNat_toNat, BitVec.setWidth_eq]

/-- Tables of 256 bytes with the same map are the same. -/
theorem eq_of_tableMap_eq {t u : List Byte} (ht : t.length = 256) (hu : u.length = 256) (h : tableMap t = tableMap u) :
    t = u := by
  have hentry : ∀ x < 256, t.getD x 0 = u.getD x 0 := forall_byte_toNat_iff.mp (congrFun h)
  refine List.ext_getElem (ht.trans hu.symm) fun x hx hx' => ?_
  rw [← List.getD_eq_getElem t 0 hx, ← List.getD_eq_getElem u 0 hx']
  exact hentry x (ht ▸ hx)

/-- The check of R146 by the indices of the table. -/
theorem bijective_iff_getD_inj {t : List Byte} (ht : t.length = 256) :
    bijective t = true ↔ ∀ x < 256, ∀ y < 256, t.getD x 0 = t.getD y 0 → x = y := by
  rw [bijective_iff_nodup]
  constructor
  · intro h x hx y hy hxy
    rw [List.getD_eq_getElem t 0 (ht.symm ▸ hx), List.getD_eq_getElem t 0 (ht.symm ▸ hy)] at hxy
    exact h.getElem_inj_iff.mp hxy
  · intro h
    refine List.nodup_iff_injective_getElem.mpr fun x y hxy => Fin.ext (h x (ht ▸ x.isLt) y (ht ▸ y.isLt) ?_)
    rwa [List.getD_eq_getElem t 0 x.isLt, List.getD_eq_getElem t 0 y.isLt]

/-- The check of R146 holds exactly when the table's map is injective. -/
theorem bijective_iff_tableMap_injective {t : List Byte} (ht : t.length = 256) :
    bijective t = true ↔ Function.Injective (tableMap t) := by
  rw [bijective_iff_getD_inj ht]
  constructor
  · exact fun h v w hvw => BitVec.eq_of_toNat_eq (h v.toNat v.isLt w.toNat w.isLt hvw)
  · intro h
    refine forall_byte_toNat_iff.mp fun v => forall_byte_toNat_iff.mp fun w hvw => ?_
    exact congrArg BitVec.toNat (h hvw)

/-! ### The bits of STATUS that read the check (R29) -/

theorem statusByte_getLsbD_four (s : State) : s.statusByte.getLsbD 4 = s.sboxBij :=
  byteOfBits_getLsbD _ (by decide)

theorem statusByte_getLsbD_five (s : State) : s.statusByte.getLsbD 5 = s.isboxBij :=
  byteOfBits_getLsbD _ (by decide)

theorem State.sboxBij_of_defined {s : State} (h : s.defined 0x0100 256 = true) : s.sboxBij = bijective s.sbox :=
  if_pos h

theorem State.isboxBij_of_defined {s : State} (h : s.defined 0x0200 256 = true) : s.isboxBij = bijective s.isbox :=
  if_pos h

/-! ### Swap -/

/-- The pass of Swap over the indices below `n`. -/
def swapPass (t : List Byte) (n : Nat) : List Byte :=
  (List.range n).foldl (fun r x => r.set (t.getD x 0).toNat (BitVec.ofNat 8 x)) (List.replicate 256 0x00)

theorem swap_eq_swapPass (t : List Byte) : swap t = swapPass t 256 := rfl

/-- Index `n` of the pass writes `n` at the value the table holds there, and leaves the other entries. -/
theorem swapPass_succ_getD (t : List Byte) (n : Nat) {y : Nat} (hy : y < 256) :
    (swapPass t (n + 1)).getD y 0 =
      if (t.getD n 0).toNat = y then BitVec.ofNat 8 n else (swapPass t n).getD y 0 := by
  have hlen : (swapPass t n).length = 256 := by rw [swapPass, swapPass_length, List.length_replicate]
  have hset : swapPass t (n + 1) = (swapPass t n).set (t.getD n 0).toNat (BitVec.ofNat 8 n) := by
    rw [swapPass, List.range_succ, List.foldl_concat, swapPass]
  rw [hset, List.getD_eq_getElem?_getD, List.getElem?_set, hlen]
  by_cases h : (t.getD n 0).toNat = y
  · rw [if_pos h, if_pos h, if_pos (h ▸ hy), Option.getD_some]
  · rw [if_neg h, if_neg h, ← List.getD_eq_getElem?_getD]

/-- Before any index with the value `y`, entry `y` holds its initial 0x00. -/
theorem swapPass_getD_of_no_index (t : List Byte) (n : Nat) {y : Nat} (hy : y < 256)
    (h : ∀ x < n, (t.getD x 0).toNat ≠ y) : (swapPass t n).getD y 0 = 0x00 := by
  induction n with
  | zero => exact List.getD_replicate 0x00 hy
  | succ n ih =>
    rw [swapPass_succ_getD t n hy, if_neg (h n n.lt_succ_self), ih fun x hx => h x (Nat.lt_succ_of_lt hx)]

/-- Once the pass is past the last index with the value `y`, entry `y` holds that index. -/
theorem swapPass_getD_of_last_index (t : List Byte) (n : Nat) {x y : Nat} (hy : y < 256) (hx : x < n)
    (hxy : (t.getD x 0).toNat = y) (hlast : ∀ z < n, x < z → (t.getD z 0).toNat ≠ y) :
    (swapPass t n).getD y 0 = BitVec.ofNat 8 x := by
  induction n with
  | zero => omega
  | succ n ih =>
    rw [swapPass_succ_getD t n hy]
    obtain rfl | hlt := Nat.eq_or_lt_of_le (Nat.le_of_lt_succ hx)
    · rw [if_pos hxy]
    · rw [if_neg (hlast n n.lt_succ_self hlt), ih hlt fun z hz => hlast z (Nat.lt_succ_of_lt hz)]

/-- Swap of a table whose map is injective undoes it: the only index of a value is the last one. -/
theorem tableMap_swap_leftInverse {t : List Byte} (h : Function.Injective (tableMap t)) :
    Function.LeftInverse (tableMap (swap t)) (tableMap t) := by
  intro v
  have hlast : ∀ z < 256, v.toNat < z → (t.getD z 0).toNat ≠ (tableMap t v).toNat := by
    refine forall_byte_toNat_iff.mp fun w hlt heq => ?_
    rw [h (BitVec.eq_of_toNat_eq heq : tableMap t w = tableMap t v)] at hlt
    exact lt_irrefl _ hlt
  rw [tableMap, swap_eq_swapPass, swapPass_getD_of_last_index t 256 (tableMap t v).isLt v.isLt rfl hlast,
    byte_ofNat_toNat]

/-- It undoes it on the other side too, the bytes being finitely many. -/
theorem tableMap_swap_rightInverse {t : List Byte} (h : Function.Injective (tableMap t)) :
    Function.RightInverse (tableMap (swap t)) (tableMap t) :=
  (tableMap_swap_leftInverse h).rightInverse_of_surjective (Finite.surjective_of_injective h)

theorem tableMap_swap_injective {t : List Byte} (h : Function.Injective (tableMap t)) :
    Function.Injective (tableMap (swap t)) :=
  (tableMap_swap_rightInverse h).injective

/-- Swap of a bijective table swaps back: both are what Swap of the table undoes. -/
theorem swap_swap_of_injective {t : List Byte} (ht : t.length = 256) (h : Function.Injective (tableMap t)) :
    swap (swap t) = t := by
  refine eq_of_tableMap_eq (swap_length _) ht ?_
  exact (tableMap_swap_leftInverse (tableMap_swap_injective h)).eq_rightInverse (tableMap_swap_leftInverse h)

/-! ### The affine map, bit by bit -/

/-- The parity of the bits two bytes share. -/
theorem parity_and (v w : Byte) :
    parity (v &&& w) = decide (((List.range 8).filter fun j => w.getLsbD j && v.getLsbD j).length % 2 = 1) := by
  rw [parity, popcount, bitsOf, List.count, List.countP_map, List.countP_eq_length_filter, beq_eq_decide]
  simp only [Function.comp_def, BitVec.getLsbD_and, beq_true, Bool.and_comm]

/-- Output bit `i` of the affine map (R140). -/
theorem affine_getLsbD (m : List Byte) (c v : Byte) {i : Nat} (hi : i < 8) :
    (affine m c v).getLsbD i = (parity (v &&& m.getD i 0) ^^ c.getLsbD i) := by
  rw [affine, byteOfBits_getLsbD _ hi]
  simp [hi]

/-! ### The affine map over GF(2) -/

/-- A bit as an element of GF(2). -/
def gf2 (b : Bool) : ZMod 2 := if b then 1 else 0

/-- A byte as the vector of its bits. -/
def bitVector (v : Byte) : Fin 8 → ZMod 2 := fun j => gf2 (v.getLsbD j)

/-- The matrix of R142: its row `i` is the vector of byte `m[i]`. -/
def bitMatrix (m : List Byte) : Matrix (Fin 8) (Fin 8) (ZMod 2) := Matrix.of fun i => bitVector (m.getD i 0)

theorem gf2_xor (a b : Bool) : gf2 (a ^^ b) = gf2 a + gf2 b := by
  cases a <;> cases b <;> rfl

theorem gf2_and (a b : Bool) : gf2 (a && b) = gf2 a * gf2 b := by
  cases a <;> cases b <;> rfl

theorem gf2_injective : Function.Injective gf2 := by decide

/-- Every element of GF(2) is a bit. -/
theorem gf2_decide_eq_one : ∀ z : ZMod 2, gf2 (decide (z = 1)) = z := by decide

/-- The parity of a number is the number in GF(2). -/
theorem gf2_decide_odd (n : Nat) : gf2 (decide (n % 2 = 1)) = n := by
  rw [← ZMod.natCast_mod n 2]
  obtain h | h := Nat.mod_two_eq_zero_or_one n <;> rw [h] <;> rfl

/-- The number of indices a predicate selects, in GF(2), is the sum of its bits. -/
theorem length_filter_range_eq_sum (p : Nat → Bool) (n : Nat) :
    (((List.range n).filter p).length : ZMod 2) = ∑ j : Fin n, gf2 (p j) := by
  induction n with
  | zero => rfl
  | succ n ih =>
    rw [Fin.sum_univ_castSucc, List.range_succ, List.filter_append, List.length_append, Nat.cast_add, ih]
    cases hp : p n <;> simp [gf2, hp]

theorem bitVector_injective : Function.Injective bitVector := fun _ _ h =>
  BitVec.eq_of_getLsbD_eq fun i hi => gf2_injective (congrFun h ⟨i, hi⟩)

theorem bitVector_surjective : Function.Surjective bitVector := by
  intro x
  refine ⟨byteOfBits (List.ofFn fun i => decide (x i = 1)), funext fun i => ?_⟩
  rw [bitVector, byteOfBits_getLsbD _ i.isLt, List.getD_eq_getElem _ _ (by simp), List.getElem_ofFn]
  exact gf2_decide_eq_one (x i)

/-- The affine map multiplies the vector of the byte by the matrix and adds the vector of the constant. -/
theorem bitVector_affine (m : List Byte) (c v : Byte) :
    bitVector (affine m c v) = (bitMatrix m).mulVec (bitVector v) + bitVector c := by
  funext i
  rw [bitVector, affine_getLsbD m c v i.isLt, parity_and, gf2_xor, gf2_decide_odd, length_filter_range_eq_sum]
  simp only [gf2_and]
  rfl

/-- The affine map is injective exactly when its matrix is invertible: the constant and the change from bytes to vectors
play no part. -/
theorem affine_injective_iff (m : List Byte) (c : Byte) :
    Function.Injective (affine m c) ↔ IsUnit (bitMatrix m) := by
  have hmap : bitVector ∘ affine m c = (· + bitVector c) ∘ (bitMatrix m).mulVec ∘ bitVector :=
    funext (bitVector_affine m c)
  rw [← bitVector_injective.of_comp_iff, hmap, (add_left_injective _).of_comp_iff,
    Function.Injective.of_comp_iff' _ ⟨bitVector_injective, bitVector_surjective⟩, Matrix.mulVec_injective_iff_isUnit]

/-! ### The generated table -/

/-- The generated table is the affine map of the field inverse (R141). -/
theorem tableMap_genTable (m : List Byte) (c : Byte) : tableMap (genTable m c) = affine m c ∘ ginv := by
  funext v
  rw [tableMap, genTable_getD m c v.isLt, byte_ofNat_toNat]
  rfl

/-- The generated table is bijective exactly when the affine map is injective: the field inverse is a bijection. -/
theorem bijective_genTable_iff (m : List Byte) (c : Byte) :
    bijective (genTable m c) = true ↔ Function.Injective (affine m c) := by
  have hginv : Function.Involutive ginv := ginv_ginv
  rw [bijective_iff_tableMap_injective (genTable_length m c), tableMap_genTable,
    Function.Injective.of_comp_iff' _ hginv.bijective]

/-! ### The obligations -/

/-- Settles O27: the parity of the bits that row `i` shares with the input, taken bit by bit. -/
theorem affineOutputBits : Obligations.AffineOutputBits := fun m c v i hi => by
  rw [affine_getLsbD m c v hi, parity_and]

/-- Settles O29: the field inverse is a bijection, and over GF(2) the affine map is the matrix and a translation. -/
theorem genTableBijectiveIffMatrixInvertible : Obligations.GenTableBijectiveIffMatrixInvertible := fun m c =>
  ⟨bijective_genTable_iff m c, (bijective_genTable_iff m c).trans (affine_injective_iff m c)⟩

/-- Settles O30: the pass over all 256 indices is past the last index of each value. -/
theorem swapTakesTheLastIndex : Obligations.SwapTakesTheLastIndex := by
  intro T _
  refine ⟨swap_length T, fun y hy => ?_⟩
  rw [swap_eq_swapPass]
  exact ⟨fun _ hx hxy hlast => swapPass_getD_of_last_index T 256 hy hx hxy hlast,
    swapPass_getD_of_no_index T 256 hy⟩

/-- Settles O31: the maps of the two tables undo each other. -/
theorem swapInvertsABijectiveTable : Obligations.SwapInvertsABijectiveTable := by
  intro T hT hbij
  have hinj := (bijective_iff_tableMap_injective hT).mp hbij
  refine ⟨forall_byte_toNat_iff.mp fun v => ?_, forall_byte_toNat_iff.mp fun v => ?_,
    (bijective_iff_tableMap_injective (swap_length T)).mpr (tableMap_swap_injective hinj),
    swap_swap_of_injective hT hinj⟩
  · rw [byte_ofNat_toNat]
    exact tableMap_swap_leftInverse hinj v
  · rw [byte_ofNat_toNat]
    exact tableMap_swap_rightInverse hinj v

/-- Settles O35: the check is that no entry repeats, and bits 4 and 5 of STATUS are the checks of the two tables. -/
theorem bijectiveMeansPairwiseDistinct : Obligations.BijectiveMeansPairwiseDistinct :=
  ⟨fun _ => bijective_iff_getD_inj, fun s =>
    ⟨fun h => (statusByte_getLsbD_four s).trans (State.sboxBij_of_defined h),
      fun h => (statusByte_getLsbD_five s).trans (State.isboxBij_of_defined h)⟩⟩

end Sys2Proof.Machine

/-! The key schedule (42_key_schedule.md R160 to R164): the byte at a position of equal-length words put one after the
other, the bytes of the word helpers, the word that the expansion puts at each index, and the obligation that follows. -/

namespace Sys2Proof.Machine

/-! ### Words of one length, one after the other -/

theorem length_flatten_of_forall_length {n : Nat} {ws : List (List Byte)} (h : ∀ w ∈ ws, w.length = n) :
    ws.flatten.length = ws.length * n := by
  rw [List.length_flatten, List.map_congr_left h, List.map_const', List.sum_replicate, smul_eq_mul]

/-- Byte `j` of word `i` stands at `n * i + j` (R161). -/
theorem flatten_getD {n : Nat} {ws : List (List Byte)} (h : ∀ w ∈ ws, w.length = n) (i : Nat) {j : Nat} (hj : j < n) :
    ws.flatten.getD (n * i + j) 0 = (ws.getD i []).getD j 0 := by
  induction ws generalizing i with
  | nil => rfl
  | cons w ws ih =>
    obtain ⟨hw, hws⟩ := List.forall_mem_cons.mp h
    rw [List.flatten_cons]
    cases i with
    | zero => rw [Nat.mul_zero, Nat.zero_add, List.getD_append _ _ _ _ (hw ▸ hj), List.getD_cons_zero]
    | succ i =>
      have hpos : n * (i + 1) + j = w.length + (n * i + j) := by rw [hw]; ring
      rw [hpos, List.getD_append_right _ _ _ _ (Nat.le_add_right _ _), Nat.add_sub_cancel_left, ih hws,
        List.getD_cons_succ]

/-! ### The word helpers, byte by byte (R160 to R163) -/

theorem xorBytes_getD {a b : List Byte} {j : Nat} (ha : j < a.length) (hb : j < b.length) :
    (xorBytes a b).getD j 0 = a.getD j 0 ^^^ b.getD j 0 := by
  rw [List.getD_eq_getElem _ _ (by simp [ha, hb]), List.getD_eq_getElem _ _ ha, List.getD_eq_getElem _ _ hb]
  exact List.getElem_zipWith

theorem rotWord_eq_rotate (w : List Byte) : rotWord w = w.rotate 1 := by cases w <;> simp [rotWord]

@[simp] theorem rotWord_length (w : List Byte) : (rotWord w).length = w.length := by
  rw [rotWord_eq_rotate, List.length_rotate]

theorem rotWord_getD {w : List Byte} {j : Nat} (hj : j < w.length) :
    (rotWord w).getD j 0 = w.getD ((j + 1) % w.length) 0 := by
  rw [rotWord_eq_rotate, List.getD_eq_getElem _ _ (by simpa using hj), List.getElem_rotate,
    List.getD_eq_getElem _ _ (Nat.mod_lt _ (by omega))]

@[simp] theorem subWord_length (w t : List Byte) : (subWord w t).length = w.length := List.length_map _

theorem subWord_getD {w : List Byte} (t : List Byte) {j : Nat} (hj : j < w.length) :
    (subWord w t).getD j 0 = t.getD (w.getD j 0).toNat 0 := by
  rw [List.getD_eq_getElem _ _ (by simpa using hj), List.getD_eq_getElem w _ hj]
  exact List.getElem_map _

/-- The round constant goes into byte 0 only (R164). -/
theorem roundConstant_getD (c : Byte) {j : Nat} (hj : j < 4) :
    ([c, 0x00, 0x00, 0x00] : List Byte).getD j 0 = if j = 0 then c else 0x00 := by
  interval_cases j <;> rfl

section
variable {w : List Byte} (hw : w.length = 4) (t : List Byte) (c : Byte)
include hw

/-- A word rotated, substituted and XORed with a round constant, as at every fourth index (R164). -/
theorem rotSubWord_length : (xorBytes (subWord (rotWord w) t) [c, 0x00, 0x00, 0x00]).length = 4 := by simp [hw]

theorem rotSubWord_getD {j : Nat} (hj : j < 4) :
    (xorBytes (subWord (rotWord w) t) [c, 0x00, 0x00, 0x00]).getD j 0 =
      t.getD (w.getD ((j + 1) % 4) 0).toNat 0 ^^^ (if j = 0 then c else 0x00) := by
  have hrot : j < (rotWord w).length := by rwa [rotWord_length, hw]
  rw [xorBytes_getD (by rwa [subWord_length]) hj, subWord_getD t hrot, rotWord_getD (hw ▸ hj), hw,
    roundConstant_getD c hj]

end

/-! ### The words of the key (R161) -/

@[simp] theorem keyWords_length (k : List Byte) : (keyWords k).length = 4 := by simp [keyWords]

theorem length_of_mem_keyWords (k : List Byte) : ∀ w ∈ keyWords k, w.length = 4 := by simp [keyWords]

theorem keyWords_getD_getD (k : List Byte) {i j : Nat} (hi : i < 4) (hj : j < 4) :
    ((keyWords k).getD i []).getD j 0 = k.getD (4 * i + j) 0 := by
  simp [keyWords, hi, hj]

/-! ### One more word (the loop body of R164) -/

theorem length_getD_of_forall_length {n i : Nat} {ws : List (List Byte)} (h : ∀ w ∈ ws, w.length = n)
    (hi : i < ws.length) : (ws.getD i []).length = n := by
  rw [List.getD_eq_getElem _ _ hi]
  exact h _ (List.getElem_mem hi)

section
variable (t : List Byte) {ws : List (List Byte)} (hlen : 4 ≤ ws.length) (hword : ∀ w ∈ ws, w.length = 4)
include hlen hword

theorem nextWord_length : (nextWord t ws).length = 4 := by
  have hprior := length_getD_of_forall_length hword (show ws.length - 1 < ws.length by omega)
  have hearlier := length_getD_of_forall_length hword (show ws.length - 4 < ws.length by omega)
  rw [nextWord, xorBytes_length, hearlier]
  split
  case isTrue => rw [rotSubWord_length hprior, Nat.min_self]
  case isFalse => rw [hprior, Nat.min_self]

theorem nextWord_getD {j : Nat} (hj : j < 4) :
    (nextWord t ws).getD j 0 = (ws.getD (ws.length - 4) []).getD j 0 ^^^
      (if ws.length % 4 = 0 then
        t.getD ((ws.getD (ws.length - 1) []).getD ((j + 1) % 4) 0).toNat 0 ^^^
          (if j = 0 then rcon.getD (ws.length / 4 - 1) 0 else 0x00)
      else (ws.getD (ws.length - 1) []).getD j 0) := by
  have hprior := length_getD_of_forall_length hword (show ws.length - 1 < ws.length by omega)
  have hearlier := length_getD_of_forall_length hword (show ws.length - 4 < ws.length by omega)
  rw [nextWord]
  split
  case isTrue =>
    rw [xorBytes_getD (by omega) (by rwa [rotSubWord_length hprior]), rotSubWord_getD hprior t _ hj]
  case isFalse => rw [xorBytes_getD (by omega) (by omega)]

end

/-! ### The expansion (R164) -/

@[simp] theorem expandWords_length (t : List Byte) (n : Nat) (ws : List (List Byte)) :
    (expandWords t n ws).length = ws.length + n := by
  induction n generalizing ws with
  | zero => rfl
  | succ n ih => rw [expandWords, ih, List.length_append, List.length_singleton]; ring

/-- The expansion keeps the words it starts from. -/
theorem prefix_expandWords (t : List Byte) (n : Nat) (ws : List (List Byte)) : ws <+: expandWords t n ws := by
  induction n generalizing ws with
  | zero => exact List.prefix_rfl
  | succ n ih => exact (List.prefix_append ws _).trans (ih _)

theorem length_of_mem_expandWords (t : List Byte) (n : Nat) {ws : List (List Byte)} (hlen : 4 ≤ ws.length)
    (hword : ∀ w ∈ ws, w.length = 4) : ∀ w ∈ expandWords t n ws, w.length = 4 := by
  induction n generalizing ws with
  | zero => exact hword
  | succ n ih =>
    refine ih (by rw [List.length_append]; omega) (List.forall_mem_append.mpr ⟨hword, ?_⟩)
    exact List.forall_mem_singleton.mpr (nextWord_length t hlen hword)

theorem getD_eq_of_prefix {ws us : List (List Byte)} (h : ws <+: us) {i : Nat} (hi : i < ws.length) :
    us.getD i [] = ws.getD i [] := by
  obtain ⟨vs, rfl⟩ := h
  exact List.getD_append ws vs [] i hi

/-- Each new word is the next word of those before it. -/
theorem expandWords_getD (t : List Byte) (n : Nat) (ws : List (List Byte)) {i : Nat} (hle : ws.length ≤ i)
    (hlt : i < ws.length + n) : (expandWords t n ws).getD i [] = nextWord t ((expandWords t n ws).take i) := by
  induction n generalizing ws with
  | zero => omega
  | succ n ih =>
    rw [expandWords]
    obtain heq | hgt := Nat.eq_or_lt_of_le hle
    · have hpre := prefix_expandWords t n (ws ++ [nextWord t ws])
      rw [← heq, ← List.prefix_iff_eq_take.mp ((List.prefix_append ws _).trans hpre),
        getD_eq_of_prefix hpre (by simp), List.getD_append_right _ _ _ _ (le_refl _), Nat.sub_self, List.getD_cons_zero]
    · exact ih (ws ++ [nextWord t ws]) (by simpa using hgt) (by simp; omega)

/-- R164's recurrence on the bytes of the words. -/
theorem expandWords_getD_getD (t : List Byte) (n : Nat) {ws : List (List Byte)} (hlen : 4 ≤ ws.length)
    (hword : ∀ w ∈ ws, w.length = 4) {i j : Nat} (hle : ws.length ≤ i) (hlt : i < ws.length + n) (hj : j < 4) :
    ((expandWords t n ws).getD i []).getD j 0 = ((expandWords t n ws).getD (i - 4) []).getD j 0 ^^^
      (if i % 4 = 0 then
        t.getD (((expandWords t n ws).getD (i - 1) []).getD ((j + 1) % 4) 0).toNat 0 ^^^
          (if j = 0 then rcon.getD (i / 4 - 1) 0 else 0x00)
      else ((expandWords t n ws).getD (i - 1) []).getD j 0) := by
  have hpre := List.take_prefix i (expandWords t n ws)
  have htake : ((expandWords t n ws).take i).length = i := by
    rw [List.length_take, expandWords_length]; omega
  have hall : ∀ w ∈ (expandWords t n ws).take i, w.length = 4 := fun w hw =>
    length_of_mem_expandWords t n hlen hword w (List.mem_of_mem_take hw)
  rw [expandWords_getD t n ws hle hlt, nextWord_getD t (by omega) hall hj, htake,
    getD_eq_of_prefix hpre (i := i - 4) (by omega), getD_eq_of_prefix hpre (i := i - 1) (by omega)]

/-! ### The expanded key -/

@[simp] theorem keyExpansion_length (k t : List Byte) : (keyExpansion k t).length = 176 := by
  rw [keyExpansion, length_flatten_of_forall_length
    (length_of_mem_expandWords t 40 (keyWords_length k).ge (length_of_mem_keyWords k)), expandWords_length,
    keyWords_length]

/-- `EXPKEY[4i + j] = w[i][j]` (R161). -/
theorem keyExpansion_getD (k t : List Byte) (i : Nat) {j : Nat} (hj : j < 4) :
    (keyExpansion k t).getD (4 * i + j) 0 = ((expandWords t 40 (keyWords k)).getD i []).getD j 0 :=
  flatten_getD (length_of_mem_expandWords t 40 (keyWords_length k).ge (length_of_mem_keyWords k)) i hj

/-- Round key 0 is the key itself (R165). -/
theorem keyExpansion_getD_of_lt_sixteen (k t : List Byte) {x : Nat} (hx : x < 16) :
    (keyExpansion k t).getD x 0 = k.getD x 0 := by
  have hword : x / 4 < 4 := by omega
  have hbyte : x % 4 < 4 := Nat.mod_lt _ (by decide)
  rw [← Nat.div_add_mod x 4, keyExpansion_getD k t _ hbyte,
    getD_eq_of_prefix (prefix_expandWords t 40 (keyWords k)) (by rwa [keyWords_length]),
    keyWords_getD_getD k hword hbyte]

/-! ### The obligation -/

/-- Settles O36: the expansion keeps the key's words, and each later word is the next word of those before it. -/
theorem keyExpansionWords : Obligations.KeyExpansionWords := by
  intro K S _ _
  refine ⟨keyExpansion_length K S, fun x hx => keyExpansion_getD_of_lt_sixteen K S hx, fun i j hi4 hi44 hj => ?_⟩
  rw [keyExpansion_getD K S i hj, keyExpansion_getD K S (i - 4) hj, keyExpansion_getD K S (i - 1) hj,
    keyExpansion_getD K S (i - 1) (Nat.mod_lt (j + 1) (by decide))]
  exact expandWords_getD_getD S 40 (keyWords_length K).ge (length_of_mem_keyWords K) (by simpa using hi4)
    (by simpa using hi44) hj

end Sys2Proof.Machine

/-! The round function and the block cipher (43_round_function.md R180 to R192): the layers byte by byte, MixColumns as
a circulant product on each column, what InvCipher undoes of a round, the states between the rounds, and the two
obligations that follow. -/

namespace Sys2Proof.Machine

/-! ### The layers byte by byte (R181 to R183, R186) -/

/-- Blocks that agree on their 16 bytes are the same. -/
theorem block_ext {a b : List Byte} (ha : a.length = 16) (hb : b.length = 16)
    (h : ∀ k < 16, a.getD k 0 = b.getD k 0) : a = b := by
  refine List.ext_getElem (ha.trans hb.symm) fun k hk hk' => ?_
  rw [← List.getD_eq_getElem a 0 hk, ← List.getD_eq_getElem b 0 hk']
  exact h k (ha ▸ hk)

theorem substitute_getD {b : List Byte} (t : List Byte) {k : Nat} (hk : k < b.length) :
    (substitute b t).getD k 0 = tableMap t (b.getD k 0) := by
  rw [List.getD_eq_getElem _ _ (by simpa using hk), List.getD_eq_getElem _ _ hk]
  exact List.getElem_map _

theorem shiftRows_getD (b : List Byte) {k : Nat} (hk : k < 16) :
    (shiftRows b).getD k 0 = b.getD (k % 4 + 4 * ((k / 4 + k % 4) % 4)) 0 := by
  simp [shiftRows, hk]

theorem invShiftRows_getD (b : List Byte) {k : Nat} (hk : k < 16) :
    (invShiftRows b).getD k 0 = b.getD (k % 4 + 4 * ((k / 4 + 4 - k % 4) % 4)) 0 := by
  simp [invShiftRows, hk]

theorem addRoundKey_getD (b ek : List Byte) (r : Nat) {k : Nat} (hk : k < 16) :
    (addRoundKey b ek r).getD k 0 = b.getD k 0 ^^^ ek.getD (16 * r + k) 0 := by
  simp [addRoundKey, hk]

/-- R191's commuting: one layer moves bytes and the other maps each byte alone. -/
theorem substitute_invShiftRows {b : List Byte} (hb : b.length = 16) (t : List Byte) :
    substitute (invShiftRows b) t = invShiftRows (substitute b t) := by
  refine block_ext (by simp) (by simp) fun k hk => ?_
  rw [substitute_getD t (by simpa using hk), invShiftRows_getD _ hk, invShiftRows_getD _ hk,
    substitute_getD t (by omega)]

theorem invShiftRows_shiftRows {b : List Byte} (hb : b.length = 16) : invShiftRows (shiftRows b) = b := by
  refine block_ext (by simp) hb fun k hk => ?_
  rw [invShiftRows_getD _ hk, shiftRows_getD _ (by omega)]
  congr 1
  omega

/-- R187: a bijective table's swap undoes it on every byte. -/
theorem substitute_substitute_swap {t : List Byte} (ht : t.length = 256) (hbij : bijective t = true) (b : List Byte) :
    substitute (substitute b t) (swap t) = b := by
  have hleft := tableMap_swap_leftInverse ((bijective_iff_tableMap_injective ht).mp hbij)
  calc (b.map (tableMap t)).map (tableMap (swap t)) = b.map id := by rw [List.map_map, hleft.comp_eq_id]
    _ = b := List.map_id b

theorem addRoundKey_addRoundKey {b : List Byte} (hb : b.length = 16) (ek : List Byte) (r : Nat) :
    addRoundKey (addRoundKey b ek r) ek r = b := by
  refine block_ext (by simp) hb fun k hk => ?_
  rw [addRoundKey_getD _ ek r hk, addRoundKey_getD b ek r hk, BitVec.xor_assoc, BitVec.xor_self, BitVec.xor_zero]

/-! ### The columns (R180, R184, R188)

Each row of the two matrices is the row above it moved one place on, so a matrix is given by its first row, and the
product of two of them by the product of their first rows as polynomials modulo x^4 + 1. -/

/-- Column `c` of a block. -/
def column (b : List Byte) (c : Nat) : Fin 4 → Byte := fun j => b.getD (4 * c + j) 0

/-- A column multiplied by the matrix whose row `i` is `m` moved `i` places on. -/
def circulantMul (m a : Fin 4 → Byte) : Fin 4 → Byte := fun i =>
  gmul (a i) (m 0) ^^^ gmul (a (i + 1)) (m 1) ^^^ gmul (a (i + 2)) (m 2) ^^^ gmul (a (i + 3)) (m 3)

/-- The first row of the product of two such matrices. -/
def rowMul (m n : Fin 4 → Byte) : Fin 4 → Byte := fun k =>
  gmul (n k) (m 0) ^^^ gmul (n (k - 1)) (m 1) ^^^ gmul (n (k - 2)) (m 2) ^^^ gmul (n (k - 3)) (m 3)

/-- The first row of the matrix of MixColumns (R184). -/
def mixRow : Fin 4 → Byte := ![0x02, 0x03, 0x01, 0x01]

/-- The first row of the matrix of InvMixColumns (R188). -/
def invMixRow : Fin 4 → Byte := ![0x0E, 0x0B, 0x0D, 0x09]

/-- The first row of the identity. -/
def unitRow : Fin 4 → Byte := ![0x01, 0x00, 0x00, 0x00]

/-- Rewriting goes by this equation: the numerals of an unfolded body are not syntactically those of a goal. -/
theorem circulantMul_apply (m a : Fin 4 → Byte) (i : Fin 4) : circulantMul m a i =
    gmul (a i) (m 0) ^^^ gmul (a (i + 1)) (m 1) ^^^ gmul (a (i + 2)) (m 2) ^^^ gmul (a (i + 3)) (m 3) := rfl

theorem rowMul_apply (m n : Fin 4 → Byte) (k : Fin 4) : rowMul m n k =
    gmul (n k) (m 0) ^^^ gmul (n (k - 1)) (m 1) ^^^ gmul (n (k - 2)) (m 2) ^^^ gmul (n (k - 3)) (m 3) := rfl

/-- The product with the matrix written out. -/
theorem ofFn_circulantMul (m a : Fin 4 → Byte) : List.ofFn (circulantMul m a) =
    [gmul (a 0) (m 0) ^^^ gmul (a 1) (m 1) ^^^ gmul (a 2) (m 2) ^^^ gmul (a 3) (m 3),
     gmul (a 0) (m 3) ^^^ gmul (a 1) (m 0) ^^^ gmul (a 2) (m 1) ^^^ gmul (a 3) (m 2),
     gmul (a 0) (m 2) ^^^ gmul (a 1) (m 3) ^^^ gmul (a 2) (m 0) ^^^ gmul (a 3) (m 1),
     gmul (a 0) (m 1) ^^^ gmul (a 1) (m 2) ^^^ gmul (a 2) (m 3) ^^^ gmul (a 3) (m 0)] := by
  simp only [List.ofFn_succ, List.ofFn_zero, circulantMul_apply, Fin.isValue, Fin.reduceSucc, Fin.reduceAdd, zero_add]
  simp only [List.cons.injEq, and_true]
  refine ⟨trivial, ?_, ?_, ?_⟩ <;> ac_rfl

/-- Two products in a row are the product with the product of the matrices. -/
theorem circulantMul_circulantMul (m n a : Fin 4 → Byte) :
    circulantMul m (circulantMul n a) = circulantMul (rowMul m n) a := by
  funext i
  have hassoc : ∀ j k : Fin 4, i + j + k = i + (j + k) := add_assoc i
  simp only [circulantMul_apply, rowMul_apply, gmul_xor_left, gmul_xor_right, gmul_assoc, hassoc]
  simp only [Fin.isValue, Fin.reduceAdd, Fin.reduceSub, Fin.add_zero]
  ac_rfl

theorem circulantMul_unitRow (a : Fin 4 → Byte) : circulantMul unitRow a = a := by
  funext i
  calc circulantMul unitRow a i
      = gmul (a i) 0x01 ^^^ gmul (a (i + 1)) 0x00 ^^^ gmul (a (i + 2)) 0x00 ^^^ gmul (a (i + 3)) 0x00 := rfl
    _ = a i ^^^ 0x00 ^^^ 0x00 ^^^ 0x00 := by simp only [gmul_one_right, gmul_zero_right]
    _ = a i := by simp

theorem rowMul_invMixRow_mixRow : rowMul invMixRow mixRow = unitRow := by decide

theorem block_ext_column {a b : List Byte} (ha : a.length = 16) (hb : b.length = 16)
    (h : ∀ c < 4, column a c = column b c) : a = b := by
  refine block_ext ha hb fun k hk => ?_
  have hbyte := congrFun (h (k / 4) (by omega)) ⟨k % 4, by omega⟩
  simpa only [column, Nat.div_add_mod] using hbyte

/-- A function of a column takes each column of the block to that column of the result. -/
theorem column_onColumns {f : Byte → Byte → Byte → Byte → List Byte} {m : Fin 4 → Byte}
    (hf : ∀ a : Fin 4 → Byte, f (a 0) (a 1) (a 2) (a 3) = List.ofFn (circulantMul m a)) (b : List Byte) {c : Nat}
    (hc : c < 4) : column (onColumns f b) c = circulantMul m (column b c) := by
  have hcols : onColumns f b = ((List.range 4).map fun c => List.ofFn (circulantMul m (column b c))).flatten := by
    simp only [onColumns, List.flatMap_def, ← hf]
    rfl
  have hcol : ((List.range 4).map fun c => List.ofFn (circulantMul m (column b c))).getD c [] =
      List.ofFn (circulantMul m (column b c)) := by
    rw [List.getD_eq_getElem _ _ (by simpa using hc), List.getElem_map, List.getElem_range]
  funext j
  rw [column, hcols, flatten_getD (by simp) c j.isLt, hcol, List.getD_eq_getElem _ _ (by simp), List.getElem_ofFn]

theorem column_mixColumns (b : List Byte) {c : Nat} (hc : c < 4) :
    column (mixColumns b) c = circulantMul mixRow (column b c) := by
  have htwo : ∀ x, gmul x (mixRow 2) = x := gmul_one_right
  have hthree : ∀ x, gmul x (mixRow 3) = x := gmul_one_right
  refine column_onColumns (fun a => ?_) b hc
  simp only [ofFn_circulantMul, htwo, hthree]
  rfl

theorem column_invMixColumns (b : List Byte) {c : Nat} (hc : c < 4) :
    column (invMixColumns b) c = circulantMul invMixRow (column b c) :=
  column_onColumns (fun a => (ofFn_circulantMul invMixRow a).symm) b hc

theorem invMixColumns_mixColumns {b : List Byte} (hb : b.length = 16) : invMixColumns (mixColumns b) = b := by
  refine block_ext_column (by simp) hb fun c hc => ?_
  rw [column_invMixColumns _ hc, column_mixColumns b hc, circulantMul_circulantMul, rowMul_invMixRow_mixRow,
    circulantMul_unitRow]

/-! ### The rounds (R190, R191) -/

/-- The state after encryption round `r`. -/
def encState (ek t b : List Byte) (r : Nat) : List Byte :=
  (List.range' 1 r).foldl (encRound ek t) (addRoundKey b ek 0)

/-- The state after decryption round `r`, the rounds running from 9 down. -/
def decState (ek it b : List Byte) (r : Nat) : List Byte :=
  (List.range' r (10 - r)).reverse.foldl (decRound ek it) (addRoundKey b ek 10)

theorem encState_succ (ek t b : List Byte) (r : Nat) :
    encState ek t b (r + 1) = encRound ek t (encState ek t b r) (r + 1) := by
  rw [encState, List.range'_concat, List.foldl_concat, Nat.one_mul, Nat.add_comm 1 r, encState]

theorem decState_of_lt_ten (ek it b : List Byte) {r : Nat} (hr : r < 10) :
    decState ek it b r = decRound ek it (decState ek it b (r + 1)) r := by
  have hcount : 10 - r = (10 - (r + 1)) + 1 := by omega
  rw [decState, hcount, List.range'_succ, List.reverse_cons, List.foldl_concat, decState]

theorem cipher_eq_encState (b ek t : List Byte) :
    cipher b ek t = addRoundKey (shiftRows (substitute (encState ek t b 9) t)) ek 10 := rfl

theorem invCipher_eq_decState (b ek it : List Byte) :
    invCipher b ek it = addRoundKey (substitute (invShiftRows (decState ek it b 1)) it) ek 0 := rfl

section
variable {t : List Byte} (ht : t.length = 256) (hbij : bijective t = true) (ek : List Byte)
include ht hbij

/-- InvShiftRows and then InvSubBytes undo SubBytes and then ShiftRows. -/
theorem substitute_invShiftRows_shiftRows_substitute {b : List Byte} (hb : b.length = 16) :
    substitute (invShiftRows (shiftRows (substitute b t))) (swap t) = b := by
  rw [invShiftRows_shiftRows (by simpa using hb), substitute_substitute_swap ht hbij]

/-- Decryption's round `r`, met after the first two layers of the round that followed it in encryption, leaves the
state after the first two layers of encryption's round `r`. -/
theorem decRound_encRound (b : List Byte) (r : Nat) :
    decRound ek (swap t) (shiftRows (substitute (encRound ek t b r) t)) r = shiftRows (substitute b t) := by
  rw [decRound, substitute_invShiftRows_shiftRows_substitute ht hbij (by simp [encRound]), encRound,
    addRoundKey_addRoundKey (by simp), invMixColumns_mixColumns (by simp)]

/-- Decryption's rounds over the reverse of any list of rounds undo encryption's. -/
theorem foldl_decRound_foldl_encRound (rs : List Nat) (b : List Byte) :
    rs.reverse.foldl (decRound ek (swap t)) (shiftRows (substitute (rs.foldl (encRound ek t) b) t)) =
      shiftRows (substitute b t) := by
  induction rs generalizing b with
  | nil => rfl
  | cons r rs ih =>
    rw [List.reverse_cons, List.foldl_concat, List.foldl_cons, ih, decRound_encRound ht hbij]

/-- Decryption inverts encryption under any expanded key. -/
theorem invCipher_cipher {b : List Byte} (hb : b.length = 16) : invCipher (cipher b ek t) ek (swap t) = b := by
  have hrounds : decState ek (swap t) (cipher b ek t) 1 = shiftRows (substitute (addRoundKey b ek 0) t) := by
    rw [decState, cipher_eq_encState, addRoundKey_addRoundKey (by simp), encState]
    exact foldl_decRound_foldl_encRound ht hbij ek (List.range' 1 9) (addRoundKey b ek 0)
  rw [invCipher_eq_decState, hrounds, substitute_invShiftRows_shiftRows_substitute ht hbij (by simp),
    addRoundKey_addRoundKey hb]

end

/-! ### The obligations -/

/-- Settles O44: the states between the rounds are the two sequences. -/
theorem cipherRounds : Obligations.CipherRounds := by
  intro B EK S hB
  refine ⟨⟨encState EK S B, rfl, fun r h1 _ => ?_, cipher_eq_encState B EK S⟩,
    ⟨decState EK S B, rfl, fun r _ h9 => decState_of_lt_ten EK S B (by omega), invCipher_eq_decState B EK S⟩,
    substitute_invShiftRows hB S⟩
  obtain ⟨n, rfl⟩ := Nat.exists_eq_succ_of_ne_zero (Nat.one_le_iff_ne_zero.mp h1)
  exact encState_succ EK S B n

/-- Settles O46: decryption inverts encryption whatever the expanded key is. -/
theorem blockRoundTrip : Obligations.BlockRoundTrip := fun _ K S hB _ hS hbij =>
  invCipher_cipher hS hbij (keyExpansion K S) hB

end Sys2Proof.Machine

/-! CBC with PKCS#7 padding (44_cbc.md R220 to R234): the run of bytes that unpadding looks for, the 16-byte blocks of a
sequence, the two chains block by block and their round trip, what the two commands leave on the engine, and the six
obligations that follow. -/

namespace Sys2Proof.Machine

open Sys2Proof.Safety

/-! ### Padding and unpadding (R220 to R222) -/

theorem pad_length (p : List Byte) : (pad p).length = (p.length / 16 + 1) * 16 := by
  rw [pad, List.length_append, List.length_replicate]
  omega

/-- A sequence shorter than a legal BUF_BYTES still fits once it is padded (R233). -/
theorem pad_length_le_of_wf {p : List Byte} {b : Nat} (hb : BufBytes.wf b = true) (h : p.length < b) :
    (pad p).length ≤ b := by
  simp only [BufBytes.wf, Bool.and_eq_true, decide_eq_true_eq] at hb
  rw [pad_length]
  omega

/-- The last `p` bytes all equal `p`, for a `p` that a padding can have: what UnpadLen tests of the final byte (R221). -/
def EndsInRun (d : List Byte) (p : Nat) : Prop :=
  1 ≤ p ∧ p ≤ 16 ∧ p ≤ d.length ∧ ∀ k, 1 ≤ k → k ≤ p → (d.getD (d.length - k) 0).toNat = p

/-- UnpadLen's pass over the last `p` bytes counts its index from 0. -/
theorem all_range_eq_true_iff (d : List Byte) (p : Nat) :
    (List.range p).all (fun j => (d.getD (d.length - (j + 1)) 0).toNat == p) = true ↔
      ∀ k, 1 ≤ k → k ≤ p → (d.getD (d.length - k) 0).toNat = p := by
  simp only [List.all_eq_true, List.mem_range, beq_iff_eq]
  constructor
  · intro h k hk hkp
    have hbyte := h (k - 1) (by omega)
    rwa [Nat.sub_add_cancel hk] at hbyte
  · exact fun h j hj => h (j + 1) (Nat.le_add_left 1 j) hj

theorem unpadLen_of_endsInRun {d : List Byte} {p : Nat} (h : EndsInRun d p) : unpadLen d = d.length - p := by
  obtain ⟨hpos, h16, hlen, hrun⟩ := h
  have hlast : (d.getD (d.length - 1) 0).toNat = p := hrun 1 (le_refl 1) hpos
  simp only [unpadLen, hlast]
  rw [if_neg (by omega), if_pos ⟨hpos, h16, hlen, (all_range_eq_true_iff d p).mpr hrun⟩]

theorem unpadLen_of_not_endsInRun {d : List Byte} (h : ¬ EndsInRun d (d.getD (d.length - 1) 0).toNat) :
    unpadLen d = d.length := by
  simp only [unpadLen]
  split
  case isTrue hempty => exact hempty.symm
  case isFalse =>
    refine if_neg fun ⟨hpos, h16, hlen, hall⟩ => h ⟨hpos, h16, hlen, ?_⟩
    exact (all_range_eq_true_iff d _).mp hall

theorem endsInRun_append_replicate (p : List Byte) {n : Nat} (hpos : 1 ≤ n) (h16 : n ≤ 16) :
    EndsInRun (p ++ List.replicate n (BitVec.ofNat 8 n)) n := by
  refine ⟨hpos, h16, by simp, fun k hk hkn => ?_⟩
  rw [List.length_append, List.length_replicate, List.getD_append_right _ _ _ _ (by omega),
    List.getD_replicate _ (by omega), BitVec.toNat_ofNat, Nat.mod_eq_of_lt (by omega)]

/-- A run of 1 to 16 bytes, each the run's length, is what unpadding strips. -/
theorem unpad_append_replicate (p : List Byte) {n : Nat} (hpos : 1 ≤ n) (h16 : n ≤ 16) :
    unpad (p ++ List.replicate n (BitVec.ofNat 8 n)) = p := by
  rw [unpad, unpadLen_of_endsInRun (endsInRun_append_replicate p hpos h16), List.length_append, List.length_replicate,
    Nat.add_sub_cancel, List.take_left]

theorem unpadLen_pad (p : List Byte) : unpadLen (pad p) = p.length := by
  rw [pad, unpadLen_of_endsInRun (endsInRun_append_replicate p (by omega) (by omega)), List.length_append,
    List.length_replicate, Nat.add_sub_cancel]

theorem unpad_pad (p : List Byte) : unpad (pad p) = p :=
  unpad_append_replicate p (by omega) (by omega)

/-! ### The 16-byte blocks (R223) -/

/-- Of words of one length put one after the other, word `j` is cut out at its place. -/
theorem take_drop_flatten {n : Nat} {ws : List (List Byte)} (h : ∀ w ∈ ws, w.length = n) {j : Nat}
    (hj : j < ws.length) : (ws.flatten.drop (n * j)).take n = ws.getD j [] := by
  induction ws generalizing j with
  | nil => exact absurd hj (Nat.not_lt_zero j)
  | cons w ws ih =>
    obtain ⟨hw, hws⟩ := List.forall_mem_cons.mp h
    rw [List.flatten_cons]
    cases j with
    | zero => rw [Nat.mul_zero, List.drop_zero, List.take_left' hw, List.getD_cons_zero]
    | succ j =>
      have hpos : n * (j + 1) = w.length + n * j := by rw [hw]; ring
      rw [hpos, List.drop_length_add_append, ih hws (Nat.lt_of_succ_lt_succ hj), List.getD_cons_succ]

theorem length_of_mem_blocksOf (m : List Byte) : ∀ b ∈ blocksOf m, b.length = 16 := by simp [blocksOf]

theorem blocksOf_getD_getD (m : List Byte) {j k : Nat} (hj : j < m.length / 16) (hk : k < 16) :
    ((blocksOf m).getD j []).getD k 0 = m.getD (16 * j + k) 0 := by
  simp [blocksOf, hj, hk]

/-- A sequence of whole blocks is its blocks one after the other. -/
theorem flatten_blocksOf {m : List Byte} {n : Nat} (hm : m.length = 16 * n) : (blocksOf m).flatten = m := by
  have hlen : (blocksOf m).flatten.length = m.length := by
    rw [length_flatten_of_forall_length (length_of_mem_blocksOf m), blocksOf_length]
    omega
  refine List.ext_getElem hlen fun x hx hx' => ?_
  have hbyte : x % 16 < 16 := Nat.mod_lt _ (by decide)
  rw [← List.getD_eq_getElem _ 0 hx, ← List.getD_eq_getElem _ 0 hx', ← Nat.div_add_mod x 16,
    flatten_getD (length_of_mem_blocksOf m) _ hbyte, blocksOf_getD_getD m (by omega) hbyte]

/-- Blocks one after the other have those blocks. -/
theorem blocksOf_flatten {ws : List (List Byte)} (h : ∀ w ∈ ws, w.length = 16) : blocksOf ws.flatten = ws := by
  have hlen : ws.flatten.length = 16 * ws.length := by rw [length_flatten_of_forall_length h, Nat.mul_comm]
  refine List.eq_iff_flatten_eq.mpr ⟨flatten_blocksOf hlen, ?_⟩
  rw [List.map_eq_replicate_iff.mpr (length_of_mem_blocksOf _), List.map_eq_replicate_iff.mpr h, blocksOf_length, hlen,
    Nat.mul_div_cancel_left _ (by decide)]

/-- The blocks of a sequence are cut out at their places. -/
theorem blocksOf_getD {m : List Byte} {n j : Nat} (hm : m.length = 16 * n) (hj : j < n) :
    (blocksOf m).getD j [] = (m.drop (16 * j)).take 16 := by
  have hcount : j < (blocksOf m).length := by rw [blocksOf_length]; omega
  rw [← take_drop_flatten (length_of_mem_blocksOf m) hcount, flatten_blocksOf hm]

/-! ### The chains, block by block (R224, R225) -/

section
variable (ek t : List Byte)

theorem length_of_mem_cbcEncryptChain (prev : List Byte) (ps : List (List Byte)) :
    ∀ c ∈ cbcEncryptChain ek t prev ps, c.length = 16 := by
  induction ps generalizing prev with
  | nil => exact List.forall_mem_nil _
  | cons p ps ih => exact List.forall_mem_cons.mpr ⟨cipher_length _ _ _, ih _⟩

theorem length_of_mem_cbcDecryptChain {prev : List Byte} {cs : List (List Byte)} (hprev : prev.length = 16)
    (hcs : ∀ c ∈ cs, c.length = 16) : ∀ p ∈ cbcDecryptChain ek t prev cs, p.length = 16 := by
  induction cs generalizing prev with
  | nil => exact List.forall_mem_nil _
  | cons c cs ih =>
    obtain ⟨hc, hcs⟩ := List.forall_mem_cons.mp hcs
    exact List.forall_mem_cons.mpr ⟨by simp [hprev], ih hc hcs⟩

theorem cbcEncryptChain_getD (prev : List Byte) {ps : List (List Byte)} {j : Nat} (hj : j < ps.length) :
    (cbcEncryptChain ek t prev ps).getD j [] = cipher (xorBytes (ps.getD j [])
      (if j = 0 then prev else (cbcEncryptChain ek t prev ps).getD (j - 1) [])) ek t := by
  induction ps generalizing prev j with
  | nil => exact absurd hj (Nat.not_lt_zero j)
  | cons p ps ih =>
    cases j with
    | zero => rfl
    | succ j =>
      rw [cbcEncryptChain, List.getD_cons_succ, List.getD_cons_succ, ih _ (Nat.lt_of_succ_lt_succ hj)]
      cases j <;> rfl

theorem cbcDecryptChain_getD (prev : List Byte) {cs : List (List Byte)} {j : Nat} (hj : j < cs.length) :
    (cbcDecryptChain ek t prev cs).getD j [] =
      xorBytes (invCipher (cs.getD j []) ek t) (if j = 0 then prev else cs.getD (j - 1) []) := by
  induction cs generalizing prev j with
  | nil => exact absurd hj (Nat.not_lt_zero j)
  | cons c cs ih =>
    cases j with
    | zero => rfl
    | succ j =>
      rw [cbcDecryptChain, List.getD_cons_succ, List.getD_cons_succ, ih _ (Nat.lt_of_succ_lt_succ hj)]
      cases j <;> rfl

theorem blocksOf_cbcEncryptBlocks (m iv : List Byte) :
    blocksOf (cbcEncryptBlocks m ek t iv) = cbcEncryptChain ek t iv (blocksOf m) :=
  blocksOf_flatten (length_of_mem_cbcEncryptChain ek t iv _)

theorem blocksOf_cbcDecryptBlocks (m : List Byte) {iv : List Byte} (hiv : iv.length = 16) :
    blocksOf (cbcDecryptBlocks m ek t iv) = cbcDecryptChain ek t iv (blocksOf m) :=
  blocksOf_flatten (length_of_mem_cbcDecryptChain ek t hiv (length_of_mem_blocksOf m))

variable {m : List Byte} {n : Nat} (hm : m.length = 16 * n)
include hm

theorem cbcEncryptBlocks_length (iv : List Byte) : (cbcEncryptBlocks m ek t iv).length = 16 * n := by
  rw [cbcEncryptBlocks, length_flatten_of_forall_length (length_of_mem_cbcEncryptChain ek t iv _),
    cbcEncryptChain_length, blocksOf_length]
  omega

theorem cbcDecryptBlocks_length {iv : List Byte} (hiv : iv.length = 16) :
    (cbcDecryptBlocks m ek t iv).length = 16 * n := by
  rw [cbcDecryptBlocks,
    length_flatten_of_forall_length (length_of_mem_cbcDecryptChain ek t hiv (length_of_mem_blocksOf m)),
    cbcDecryptChain_length, blocksOf_length]
  omega

end

/-! ### The round trip of the chains (R192, R234) -/

theorem xorBytes_xorBytes {a b : List Byte} (h : a.length = b.length) : xorBytes (xorBytes a b) b = a := by
  refine List.ext_getElem (by simp [h]) fun k hk hk' => ?_
  simp only [xorBytes, List.getElem_zipWith, BitVec.xor_assoc, BitVec.xor_self, BitVec.xor_zero]

section
variable {t : List Byte} (ht : t.length = 256) (hbij : bijective t = true) (ek : List Byte)
include ht hbij

theorem cbcDecryptChain_cbcEncryptChain {prev : List Byte} {ps : List (List Byte)} (hprev : prev.length = 16)
    (hps : ∀ p ∈ ps, p.length = 16) :
    cbcDecryptChain ek (swap t) prev (cbcEncryptChain ek t prev ps) = ps := by
  induction ps generalizing prev with
  | nil => rfl
  | cons p ps ih =>
    obtain ⟨hp, hps⟩ := List.forall_mem_cons.mp hps
    rw [cbcEncryptChain, cbcDecryptChain, invCipher_cipher ht hbij ek (by simp [hp, hprev]),
      xorBytes_xorBytes (hp.trans hprev.symm), ih (cipher_length _ _ _) hps]

theorem cbcDecryptBlocks_cbcEncryptBlocks {m iv : List Byte} {n : Nat} (hm : m.length = 16 * n)
    (hiv : iv.length = 16) : cbcDecryptBlocks (cbcEncryptBlocks m ek t iv) ek (swap t) iv = m := by
  rw [cbcDecryptBlocks, blocksOf_cbcEncryptBlocks,
    cbcDecryptChain_cbcEncryptChain ht hbij ek hiv (length_of_mem_blocksOf m), flatten_blocksOf hm]

end

/-! ### The two commands on the engine (R230, R231) -/

theorem bijective_sbox_iff (s : State) : bijective s.sbox = true ↔ DistinctAt s 0x0100 :=
  (bijective_iff_nodup _).trans (distinctAt_iff s 0x0100).symm

/-- The first bytes of a block are a shorter block. -/
theorem State.loadBlock_take (s : State) (base : Nat) {n k : Nat} (h : k ≤ n) :
    (s.loadBlock base n).take k = s.loadBlock base k := by
  rw [State.loadBlock, ← List.map_take, List.take_range, Nat.min_eq_left h, State.loadBlock]

/-- What a CBC command leaves: EXPKEY, the sequence in DOUT and its OUTLEN. -/
def State.cbcDone (s : State) (ek out : List Byte) (n : Nat) : State :=
  (((s.setExpkey ek).setDout out).setOutLen n).succeed

section
variable (s : State) (ek out : List Byte) (n : Nat)

theorem State.succeeded_cbcDone : Succeeded s (s.cbcDone ek out n) := by
  simp [Succeeded, Kept, State.cbcDone, State.setExpkey_eq, State.setDout_eq]

@[simp] theorem State.cbcDone_outLen : (s.cbcDone ek out n).outLen = BitVec.ofNat 16 n := rfl

theorem State.cbcDone_dout {k : Nat} (hk : k ≤ out.length) : (s.cbcDone ek out n).dout k = out.take k := by
  have hall : (s.cbcDone ek out n).loadBlock 0x8000 out.length = out :=
    (State.loadBlock_congr (s := (s.setExpkey ek).setDout out) rfl rfl 0x8000 _).trans
      (State.loadBlock_storeBlock_self _ _ _ rfl)
  calc (s.cbcDone ek out n).loadBlock 0x8000 k
      = ((s.cbcDone ek out n).loadBlock 0x8000 out.length).take k := (State.loadBlock_take _ _ hk).symm
    _ = out.take k := by rw [hall]

end

/-- CBC_ENC's outcome where no check fails (R230). -/
theorem exec_cbcEnc_of_bijective {s : State} (hlen : s.len.toNat < s.capacity) (hbij : bijective s.sbox = true) :
    exec .cbcEnc s = .next (s.cbcDone (keyExpansion s.key s.sbox)
      (cbcEncryptBlocks (pad (s.din s.len.toNat)) (keyExpansion s.key s.sbox) s.sbox s.iv)
      (pad (s.din s.len.toNat)).length) := by
  rw [exec_eq, outcome, cbcEnc, if_neg (Nat.not_le.mpr hlen), if_pos hbij]
  rfl

/-- CBC_DEC's outcome where no check fails, with `d` for the decrypted sequence (R231). -/
theorem exec_cbcDec_of_bijective {s : State} {d : List Byte} (h16 : s.len.toNat % 16 = 0)
    (hlen : s.len.toNat ≤ s.capacity) (hbij : bijective s.isbox = true)
    (hd : cbcDecryptBlocks (s.din s.len.toNat) (keyExpansion s.key (swap s.isbox)) s.isbox s.iv = d) :
    exec .cbcDec s = .next (s.cbcDone (keyExpansion s.key (swap s.isbox)) d (unpadLen d)) := by
  subst hd
  rw [exec_eq, outcome, cbcDec, if_neg (not_not.mpr h16), if_neg (Nat.not_lt.mpr hlen), if_pos hbij]
  rfl

/-- After CBC_ENC, OUTLEN is the padded length, which 16 bits hold, and DOUT[0..OUTLEN) is the ciphertext (R232). -/
theorem outLen_and_dout_of_cbcEnc {s t : State} (hwf : BufBytes.wf s.bufBytes.toNat = true)
    (hlen : s.len.toNat < s.bufBytes.toNat) (hbij : bijective s.sbox = true) (h : exec .cbcEnc s = .next t) :
    t.outLen.toNat = (pad (s.din s.len.toNat)).length ∧ t.dout t.outLen.toNat =
      cbcEncryptBlocks (pad (s.din s.len.toNat)) (keyExpansion s.key s.sbox) s.sbox s.iv := by
  rw [exec_cbcEnc_of_bijective hlen hbij] at h
  obtain rfl := Host.Outcome.next.inj h
  have hdin : (s.din s.len.toNat).length = s.len.toNat := State.loadBlock_length _ _ _
  have hfits : (pad (s.din s.len.toNat)).length < 2 ^ 16 :=
    lt_of_le_of_lt (pad_length_le_of_wf hwf (by rwa [hdin])) s.bufBytes.isLt
  have hcipher := cbcEncryptBlocks_length (keyExpansion s.key s.sbox) s.sbox
    ((pad_length (s.din s.len.toNat)).trans (Nat.mul_comm _ _)) s.iv
  rw [State.cbcDone_outLen, BitVec.toNat_ofNat, Nat.mod_eq_of_lt hfits]
  refine ⟨rfl, ?_⟩
  rw [pad_length, Nat.mul_comm, ← hcipher, State.cbcDone_dout _ _ _ _ (le_refl _), List.take_length]

/-- Where the decrypted sequence is a padded one, CBC_DEC leaves what was padded and its length (R221, R231). -/
theorem cbcDec_of_decrypts_to_pad {s : State} {p : List Byte} (hlen : s.len.toNat = (pad p).length)
    (hfits : (pad p).length ≤ s.capacity) (hbij : bijective s.isbox = true)
    (hd : cbcDecryptBlocks (s.din s.len.toNat) (keyExpansion s.key (swap s.isbox)) s.isbox s.iv = pad p) :
    ∃ t, exec .cbcDec s = .next t ∧ Succeeded s t ∧ t.outLen = BitVec.ofNat 16 p.length ∧ t.dout p.length = p := by
  have h16 : s.len.toNat % 16 = 0 := by rw [hlen, pad_length, Nat.mul_mod_left]
  refine ⟨_, exec_cbcDec_of_bijective h16 (hlen ▸ hfits) hbij hd, s.succeeded_cbcDone _ _ _, ?_, ?_⟩
  · rw [State.cbcDone_outLen, unpadLen_pad]
  · rw [State.cbcDone_dout _ _ _ _ (by rw [pad_length]; omega)]
    exact List.take_left

/-! ### The obligations -/

/-- Settles O49: the pad fills up the last block, or is a block of its own. -/
theorem padAppendsItsLength : Obligations.PadAppendsItsLength :=
  ⟨fun P => ⟨rfl, by omega, by omega, pad_length P⟩, rfl⟩

/-- Settles O50: the statement's consistency is the run that UnpadLen looks for; the empty sequence has none. -/
theorem unpadStripsOnlyAConsistentRun : Obligations.UnpadStripsOnlyAConsistentRun := by
  intro D
  exact ⟨fun hempty => if_pos hempty, fun _ => unpadLen_of_endsInRun, fun _ => unpadLen_of_not_endsInRun, rfl⟩

/-- Settles O51: a padding is a run, and so is a final 0x01. -/
theorem unpadUndoesPad : Obligations.UnpadUndoesPad := by
  refine ⟨unpad_pad, fun P => ?_⟩
  have hrun : P ++ [0x41, 0x01] = (P ++ [0x41]) ++ List.replicate 1 (BitVec.ofNat 8 1) := by simp
  rw [hrun, unpad_append_replicate _ (by decide) (by decide)]

/-- Settles O52: the blocks of the ciphertext are the chain. -/
theorem cbcEncryptionChains : Obligations.CbcEncryptionChains := by
  intro P EK S IV n hP hIV
  have hC := cbcEncryptBlocks_length EK S hP IV
  refine ⟨hC, fun j hj => ?_⟩
  have hcount : j < (blocksOf P).length := by rw [blocksOf_length]; omega
  beta_reduce
  rw [← blocksOf_getD hC hj, ← blocksOf_getD hP hj, ← blocksOf_getD hC (show j - 1 < n by omega),
    blocksOf_cbcEncryptBlocks]
  exact cbcEncryptChain_getD EK S IV hcount

/-- Settles O53: the blocks of the plaintext are the chain. -/
theorem cbcDecryptionChains : Obligations.CbcDecryptionChains := by
  intro C EK IS IV n hC hIV
  have hD := cbcDecryptBlocks_length EK IS hC hIV
  refine ⟨hD, fun j hj => ?_⟩
  have hcount : j < (blocksOf C).length := by rw [blocksOf_length]; omega
  beta_reduce
  rw [← blocksOf_getD hD hj, ← blocksOf_getD hC hj, ← blocksOf_getD hC (show j - 1 < n by omega),
    blocksOf_cbcDecryptBlocks EK IS C hIV]
  exact cbcDecryptChain_getD EK IS IV hcount

/-- Settles O56: with LEN = OUTLEN and ISBOX = Swap(SBOX), CBC_DEC expands the same key and its chain undoes
CBC_ENC's, which leaves the padded plaintext. -/
theorem cbcRoundTrip : Obligations.CbcRoundTrip := by
  intro s t u _ _ hwf hdist hlen hexec hbuf hkey hiv hisbox hulen hdin
  have hbij := (bijective_sbox_iff s).mpr hdist
  have hsbox : s.sbox.length = 256 := State.loadBlock_length _ _ _
  have hplain : (s.din s.len.toNat).length = s.len.toNat := State.loadBlock_length _ _ _
  obtain ⟨_, _, hbij', hswap⟩ := swapInvertsABijectiveTable s.sbox hsbox hbij
  obtain ⟨hout, hdout⟩ := outLen_and_dout_of_cbcEnc hwf hlen hbij hexec
  have hdec : cbcDecryptBlocks (u.din u.len.toNat) (keyExpansion u.key (swap u.isbox)) u.isbox u.iv =
      pad (s.din s.len.toNat) := by
    rw [hulen, hdin, hdout, hkey, hisbox, hswap, hiv]
    exact cbcDecryptBlocks_cbcEncryptBlocks hsbox hbij _ ((pad_length _).trans (Nat.mul_comm _ _))
      (State.loadBlock_length _ _ _)
  obtain ⟨w, hw, hsucc, hwlen, hwout⟩ := cbcDec_of_decrypts_to_pad (hulen ▸ hout)
    (by rw [State.capacity, hbuf]; exact pad_length_le_of_wf hwf (by rwa [hplain])) (hisbox ▸ hbij') hdec
  rw [hplain] at hwlen hwout
  exact ⟨w, hw, hsucc, by rw [hwlen, BitVec.ofNat_toNat, BitVec.setWidth_eq], hwout⟩

end Sys2Proof.Machine

/-! Exceptions (60_exceptions.md R251 to R258): what a completion with an error is, which outcomes are the error
NonBijectiveSbox, and the two obligations that follow. Every command and every byte in flight ends in
`State.complete` of some outcome, so what is said of `State.complete` is said of all of them. -/

namespace Sys2Proof.Machine

open Sys2Proof.Safety

/-! ### Completion with an error (R93, R253) -/

/-- No error is recorded as success is. -/
theorem CmdError.code_ne_zero (e : CmdError) : e.code ≠ 0x00 := by cases e <;> decide

/-- ERRCODE tells the errors apart. -/
theorem CmdError.code_injective : Function.Injective CmdError.code := by
  intro e e' h
  cases e <;> cases e' <;> simp [CmdError.code] at h ⊢

theorem State.failedWith_failWith (s : State) (e : CmdError) : FailedWith s (s.failWith e) e.code := rfl

/-- Only an error completes with ERR = 1. -/
theorem State.complete_err_eq_true_iff {s : State} {r : CmdResult} : (s.complete r).err = true ↔ ∃ e, r = .error e := by
  cases r <;> simp

/-- Only an error completes with its code. -/
theorem State.complete_errCode_eq_code_iff {s : State} {r : CmdResult} {e : CmdError} :
    (s.complete r).errCode = e.code ↔ r = .error e := by
  cases r with
  | ok t => simpa using e.code_ne_zero.symm
  | error e' => simpa using CmdError.code_injective.eq_iff

/-- A completion with ERR = 1 records a code and writes nothing else. -/
theorem State.failedWith_complete {s : State} {r : CmdResult} (h : (s.complete r).err = true) :
    (s.complete r).errCode ≠ 0x00 ∧ FailedWith s (s.complete r) (s.complete r).errCode := by
  obtain ⟨e, rfl⟩ := State.complete_err_eq_true_iff.mp h
  exact ⟨e.code_ne_zero, s.failedWith_failWith e⟩

/-- The command unit's turn on a byte in flight, legal or not, is a completion. -/
theorem step_completes {s : State} (hb : s.busy = true) (h : UnitsTurn s.schedule) :
    ∃ r, step s = .next ((s.setSchedule s.schedule.tail).complete r) := by
  rw [step_of_unitsTurn h, unitTurn_busy (by exact hb)]
  obtain ⟨_, _, hrun⟩ | ⟨_, hrun⟩ := runCommand_cases (s.setSchedule s.schedule.tail)
  · exact ⟨_, hrun⟩
  · exact ⟨.error .illegalCommand, hrun⟩

/-- A command whose outcome is an error fails with its code. -/
theorem exec_of_outcome_error {i : Instr} {s : State} {e : CmdError} (h : outcome i s = .error e) :
    ∃ t, exec i s = .next t ∧ FailedWith s t e.code :=
  ⟨s.failWith e, by rw [exec_eq, h, State.complete_error], s.failedWith_failWith e⟩

/-- A command that records an error's code had that error for its outcome. -/
theorem outcome_of_exec_errCode {i : Instr} {s t : State} {e : CmdError} (h : exec i s = .next t)
    (ht : t.errCode = e.code) : outcome i s = .error e := by
  rw [exec_eq] at h
  obtain rfl := Host.Outcome.next.inj h
  exact State.complete_errCode_eq_code_iff.mp ht

/-! ### The check of R256 in the outcomes -/

theorem bijective_isbox_iff (s : State) : bijective s.isbox = true ↔ DistinctAt s 0x0200 :=
  (bijective_iff_nodup _).trans (distinctAt_iff s 0x0200).symm

section
variable (s : State)

theorem keyExpand_eq_nonBijectiveSbox_iff : keyExpand s = .error .nonBijectiveSbox ↔ ¬ bijective s.sbox = true := by
  rw [keyExpand]; split_ifs with h <;> simp [h]

theorem blkThrough_eq_nonBijectiveSbox_iff (table out : List Byte) :
    blkThrough s table out = .error .nonBijectiveSbox ↔ ¬ bijective table = true := by
  rw [blkThrough]; split_ifs with h <;> simp [h]

/-- CBC_ENC checks the length first (R230, R258). -/
theorem cbcEnc_eq_nonBijectiveSbox_iff :
    cbcEnc s = .error .nonBijectiveSbox ↔ s.len.toNat < s.capacity ∧ ¬ bijective s.sbox = true := by
  rw [cbcEnc, ← Nat.not_le]
  split_ifs with hlen hbij <;> simp [*]

/-- CBC_DEC checks the length twice first (R231, R258). -/
theorem cbcDec_eq_nonBijectiveSbox_iff : cbcDec s = .error .nonBijectiveSbox ↔
    s.len.toNat % 16 = 0 ∧ s.len.toNat ≤ s.capacity ∧ ¬ bijective s.isbox = true := by
  rw [cbcDec, ← Nat.not_lt]
  split_ifs with h16 hlen hbij <;> simp_all

theorem addRoundKeyByOpa_ne_nonBijectiveSbox : addRoundKeyByOpa s ≠ .error .nonBijectiveSbox := by
  rw [addRoundKeyByOpa]; split_ifs <;> simp

/-- R256: which commands check SBOX and which ISBOX, and that no other outcome is this error. -/
theorem outcome_eq_nonBijectiveSbox_iff (i : Instr) : outcome i s = .error .nonBijectiveSbox ↔
    ((i ∈ ([.keyExpand, .encBlock, .subBytes] : List Instr) ∨ i = .cbcEnc ∧ s.len.toNat < s.capacity) ∧
      ¬ DistinctAt s 0x0100) ∨
    ((i ∈ ([.decBlock, .invSubBytes] : List Instr) ∨
      i = .cbcDec ∧ s.len.toNat % 16 = 0 ∧ s.len.toNat ≤ s.capacity) ∧ ¬ DistinctAt s 0x0200) := by
  rw [← bijective_sbox_iff, ← bijective_isbox_iff]
  cases i with
  | keyExpand => simpa [outcome] using keyExpand_eq_nonBijectiveSbox_iff s
  | encBlock | subBytes => simpa [outcome] using blkThrough_eq_nonBijectiveSbox_iff s s.sbox _
  | decBlock | invSubBytes => simpa [outcome] using blkThrough_eq_nonBijectiveSbox_iff s s.isbox _
  | cbcEnc => simpa [outcome] using cbcEnc_eq_nonBijectiveSbox_iff s
  | cbcDec => simpa [outcome, and_assoc] using cbcDec_eq_nonBijectiveSbox_iff s
  | addRoundKey => simpa [outcome] using addRoundKeyByOpa_ne_nonBijectiveSbox s
  | _ => simp [outcome]

end

/-! ### The obligations -/

/-- Settles O8: a command and the unit's turn are completions, and a completion with ERR = 1 is `State.failWith`. -/
theorem failureWritesNothingElse : Obligations.FailureWritesNothingElse := by
  refine ⟨fun i s t hexec herr => ?_, fun s t hb hturn hstep herr => ?_⟩
  · obtain rfl := Host.Outcome.next.inj ((exec_eq i s).symm.trans hexec)
    exact (State.failedWith_complete herr).2
  · obtain ⟨r, hr⟩ := step_completes hb hturn
    obtain rfl := Host.Outcome.next.inj (hr.symm.trans hstep)
    exact State.failedWith_complete herr

/-- Settles O48: each clause is a case of `outcome_eq_nonBijectiveSbox_iff`. That the tables are defined is not
needed. -/
theorem bijectivityIsCheckedBeforeCipherUse : Obligations.BijectivityIsCheckedBeforeCipherUse := by
  intro s _ _
  have fails {i : Instr} := fun h => exec_of_outcome_error ((outcome_eq_nonBijectiveSbox_iff s i).mpr h)
  refine ⟨fun hrep i hi => fails (.inl ⟨.inl hi, hrep⟩), fun hrep hlen => fails (.inl ⟨.inr ⟨rfl, hlen⟩, hrep⟩),
    fun hrep i hi => fails (.inr ⟨.inl hi, hrep⟩),
    fun hrep h16 hlen => fails (.inr ⟨.inr ⟨rfl, h16, hlen⟩, hrep⟩), fun i t hexec hcode => ?_⟩
  obtain ⟨hi, hrep⟩ | ⟨hi, hrep⟩ := (outcome_eq_nonBijectiveSbox_iff s i).mp
    (outcome_of_exec_errCode (e := .nonBijectiveSbox) hexec hcode)
  · exact .inl ⟨by simp only [List.mem_cons] at hi ⊢; tauto, hrep⟩
  · exact .inr ⟨by simp only [List.mem_cons] at hi ⊢; tauto, hrep⟩

end Sys2Proof.Machine

/-! The reset event (70_reset_and_hazards.md R280, R282). -/

namespace Sys2Proof.Machine

/-- Settles O20: the step on a reset event is `State.hardReset` after the event is taken off the schedule, and
`State.hardReset` keeps only BUF_BYTES and the schedule and counts both counters up by one. BUSY plays no part. -/
theorem resetEventAtAnyTime : Obligations.ResetEventAtAnyTime := by
  intro s rest hreset
  have hstep : step s = .next (s.setSchedule rest).hardReset := step_reset hreset
  exact ⟨s.draws + 1, s.epoch + 1, hstep⟩

end Sys2Proof.Machine

/-! The opcode map in both directions (30_encoding.md R90, R94 to R96), and a command's byte in flight (R91 to R93,
R100): the command unit's turn runs the command the byte decodes to. -/

namespace Sys2Proof.Machine

open Sys2Proof.Safety

/-! ### Decode and encode -/

theorem decode_encode (i : Instr) : decode (encode i) = .ok i := by cases i <;> rfl

/-- Each row of R94's table holds the byte that its FAM and FN columns give. -/
theorem encode_of_mem_opcodeTable : ∀ row ∈ opcodeTable, encode row.2 = row.1 := by decide

/-- A decoded byte is listed with its command. -/
theorem mem_opcodeTable_of_decode {opc : Byte} {i : Instr} (h : decode opc = .ok i) : (opc, i) ∈ opcodeTable := by
  rw [decode] at h
  split at h
  case h_1 j hj =>
    obtain rfl : j = i := Except.ok.inj h
    obtain ⟨before, after, htable, _⟩ := List.lookup_eq_some_iff.mp hj
    rw [htable]
    exact List.mem_append_right _ List.mem_cons_self
  case h_2 => exact absurd h (by simp)

theorem encode_of_decode {opc : Byte} {i : Instr} (h : decode opc = .ok i) : encode i = opc :=
  encode_of_mem_opcodeTable (opc, i) (mem_opcodeTable_of_decode h)

/-- The only rejection is by name. -/
theorem decode_eq_error_iff {opc : Byte} :
    decode opc = .error (.illegalCommand opc) ↔ ∀ i, decode opc ≠ .ok i := by
  rw [decode]
  cases opcodeTable.lookup opc <;> simp

/-- The well-formed bytes are those outside the ranges of R95. -/
theorem wf_eq_not_inIllegalRange : ∀ opc : Byte, Opcode.wf opc = !inIllegalRange opc.toNat := by decide

theorem wf_eq_false_iff {opc : Byte} : Opcode.wf opc = false ↔ ∀ i, decode opc ≠ .ok i := by
  rw [wf_eq_not_inIllegalRange, Bool.not_eq_false', inIllegalRange_iff]

theorem wf_eq_true_iff {opc : Byte} : Opcode.wf opc = true ↔ ∃ i, decode opc = .ok i := by
  rw [← Bool.not_eq_false, wf_eq_false_iff, not_forall_not]

/-! ### A command in flight -/

theorem runCommand_of_decode {s : State} {i : Instr} (h : decode s.lastCmd = .ok i) : runCommand s = exec i s := by
  rw [runCommand, State.fetch, h]

/-- When the command unit's turn is next, a step runs the command in flight. -/
theorem step_runs_command {s : State} {i : Instr} (hb : s.busy = true) (hi : decode s.lastCmd = .ok i)
    (h : UnitsTurn s.schedule) : step s = exec i (s.setSchedule s.schedule.tail) := by
  rw [step_of_unitsTurn h, unitTurn_busy (by exact hb), runCommand_of_decode (by exact hi)]

/-! ### The obligations -/

/-- Settles O2: the table's rows are the encodings, and the ranges of R95 are the bytes without a row. -/
theorem decodeEncodeAgree : Obligations.DecodeEncodeAgree := by
  refine ⟨fun i => ⟨decode_encode i, wf_eq_true_iff.mpr ⟨i, decode_encode i⟩⟩, fun opc => ?_, fun opc => ?_⟩
  · rw [wf_eq_true_iff]
    exact exists_congr fun i => (and_iff_left_of_imp encode_of_decode).symm
  · rw [wf_eq_false_iff, decode_eq_error_iff]

/-- Settles O1: rows of R94's table. -/
theorem tableBytesDecode : Obligations.TableBytesDecode := ⟨rfl, rfl, rfl, rfl, rfl, rfl⟩

/-- Settles O5: with no event to come, taking the turn off the schedule changes nothing. -/
theorem stepRunsDecodedCommand : Obligations.StepRunsDecodedCommand := by
  refine fun s i hb hi => ⟨fun hs => ?_, fun rest hs => ?_⟩
  · rw [step_nil hs, unitTurn_busy hb, runCommand_of_decode hi]
  · rw [step_complete hs, unitTurn_busy (by exact hb), runCommand_of_decode (by exact hi)]
    rfl

/-- Settles O6: the write is the acceptance, and the unit's turn runs the byte accepted. -/
theorem issuedCommandRuns : Obligations.IssuedCommandRuns := fun s i later hb hl hs =>
  ⟨_, s.draws + 1, step_issue hb hs,
    step_runs_command (s := ((s.setSchedule later).accept (encode i)).nextDraw) rfl (decode_encode i) hl⟩

/-- Settles O19: the fields as State.reset sets them, and the idle unit's turn. -/
theorem resetLeavesItsValues : Obligations.ResetLeavesItsValues :=
  ⟨rfl, rfl, rfl, rfl, rfl, rfl, rfl, rfl, rfl, rfl, rfl, rfl, fun _ => rfl,
    (step_nil rfl).trans (unitTurn_idle rfl)⟩

end Sys2Proof.Machine

/-! The commands that write one data store (41_sbox.md R150 to R153, 42_key_schedule.md R167, 43_round_function.md R200
to R211): a command whose outcome is a block store succeeds and leaves that block and nothing else, so that each
statement is about which block it is, byte by byte. -/

namespace Sys2Proof.Machine

open Sys2Proof.Safety

/-! ### A command that stores one block -/

/-- A block store defines its own bytes and leaves every other as it was. -/
theorem State.read_storeBlock (s : State) (base a : Nat) (vs : List Byte) :
    Memory.read (s.storeBlock base vs).mem a =
      if base ≤ a ∧ a < base + vs.length then some (vs.getD (a - base) 0) else Memory.read s.mem a := by
  rw [State.storeBlock_mem, Memory.read_writeBlock]
  split_ifs with h
  · rw [List.getD_eq_getElem _ _ (by omega), List.getElem?_eq_getElem (by omega)]
  · rfl

theorem State.succeeded_storeBlock (s : State) (base : Nat) (vs : List Byte) :
    Succeeded s (s.storeBlock base vs).succeed := by
  simp [Succeeded, Kept]

theorem State.storedOnly_storeBlock (s : State) (base : Nat) {vs : List Byte} {n : Nat} {f : Nat → Byte}
    (hlen : vs.length = n) (hf : ∀ k < n, vs.getD k 0 = f k) :
    StoredOnly s (s.storeBlock base vs).succeed base n f := by
  refine ⟨rfl, rfl, fun a => ?_⟩
  rw [State.succeed_mem, State.read_storeBlock, hlen]
  split_ifs with h
  · rw [hf (a - base) (by omega)]
  · rfl

/-- A command whose outcome is one block store succeeds with it and changes nothing else. -/
theorem exec_of_outcome_storeBlock {i : Instr} {s : State} {base n : Nat} {vs : List Byte} {f : Nat → Byte}
    (h : outcome i s = .ok (s.storeBlock base vs)) (hlen : vs.length = n) (hf : ∀ k < n, vs.getD k 0 = f k) :
    ∃ t, exec i s = .next t ∧ Succeeded s t ∧ StoredOnly s t base n f :=
  ⟨(s.storeBlock base vs).succeed, by rw [exec_eq, h, State.complete_ok], s.succeeded_storeBlock base vs,
    s.storedOnly_storeBlock base hlen hf⟩

/-- The same, read back byte by byte. -/
theorem exec_of_outcome_setBlk {i : Instr} {s : State} {vs : List Byte} (h : outcome i s = .ok (s.setBlk vs))
    (hlen : vs.length = 16) : ∃ t, exec i s = .next t ∧ Succeeded s t ∧ (∃ f, StoredOnly s t 0x0040 16 f) ∧
      ∀ k < 16, Memory.read t.mem (0x0040 + k) = some (vs.getD k 0) := by
  obtain ⟨t, ht, hsucc, hstored⟩ :=
    exec_of_outcome_storeBlock (base := 0x0040) (f := fun k => vs.getD k 0) h hlen fun _ _ => rfl
  refine ⟨t, ht, hsucc, ⟨_, hstored⟩, fun k hk => ?_⟩
  rw [hstored.2.2, if_pos (by omega), Nat.add_sub_cancel_left]

/-- A block command through a bijective table stores its block. -/
theorem exec_of_blkThrough {i : Instr} {s : State} {table out : List Byte} {f : Nat → Byte}
    (h : outcome i s = blkThrough s table out) (hbij : bijective table = true) (hlen : out.length = 16)
    (hf : ∀ k < 16, out.getD k 0 = f k) :
    ∃ t, exec i s = .next t ∧ Succeeded s t ∧ StoredOnly s t 0x0040 16 f :=
  exec_of_outcome_storeBlock (h.trans (if_pos hbij)) hlen hf

/-! ### The operands byte by byte -/

section
variable (s : State) {k : Nat}

theorem State.blk_length : s.blk.length = 16 := s.loadBlock_length _ _
theorem State.sbox_length : s.sbox.length = 256 := s.loadBlock_length _ _
theorem State.isbox_length : s.isbox.length = 256 := s.loadBlock_length _ _

theorem State.blk_getD (hk : k < 16) : s.blk.getD k 0 = s.load (0x0040 + k) := s.loadBlock_getD _ _ _ hk
theorem State.sbox_getD (hk : k < 256) : s.sbox.getD k 0 = s.load (0x0100 + k) := s.loadBlock_getD _ _ _ hk
theorem State.isbox_getD (hk : k < 256) : s.isbox.getD k 0 = s.load (0x0200 + k) := s.loadBlock_getD _ _ _ hk
theorem State.expkey_getD (hk : k < 176) : s.expkey.getD k 0 = s.load (0x0300 + k) := s.loadBlock_getD _ _ _ hk

/-- A byte of BLK through SBOX. -/
theorem substitute_blk_sbox_getD (hk : k < 16) :
    (substitute s.blk s.sbox).getD k 0 = s.load (0x0100 + (s.load (0x0040 + k)).toNat) := by
  rw [substitute_getD _ (by rwa [State.blk_length]), tableMap, State.sbox_getD s (BitVec.isLt _), State.blk_getD s hk]

/-- A byte of BLK through ISBOX. -/
theorem substitute_blk_isbox_getD (hk : k < 16) :
    (substitute s.blk s.isbox).getD k 0 = s.load (0x0200 + (s.load (0x0040 + k)).toNat) := by
  rw [substitute_getD _ (by rwa [State.blk_length]), tableMap, State.isbox_getD s (BitVec.isLt _), State.blk_getD s hk]

theorem addRoundKey_blk_expkey_getD {r : Nat} (hr : r ≤ 10) (hk : k < 16) :
    (addRoundKey s.blk s.expkey r).getD k 0 = s.load (0x0040 + k) ^^^ s.load (0x0300 + 16 * r + k) := by
  rw [addRoundKey_getD _ _ _ hk, State.blk_getD s hk, State.expkey_getD s (by omega), ← Nat.add_assoc]

/-- Row `r` of BLK moved `r` columns toward column 0. -/
theorem shiftRows_blk_getD {r c : Nat} (hr : r < 4) (hc : c < 4) :
    (shiftRows s.blk).getD (r + 4 * c) 0 = s.load (0x0040 + r + 4 * ((c + r) % 4)) := by
  have hrow : (r + 4 * c) % 4 = r := by omega
  have hcol : (r + 4 * c) / 4 = c := by omega
  rw [shiftRows_getD _ (by omega), hrow, hcol, State.blk_getD s (by omega), Nat.add_assoc]

/-- Row `r` of BLK moved `r` columns the other way. -/
theorem invShiftRows_blk_getD {r c : Nat} (hr : r < 4) (hc : c < 4) :
    (invShiftRows s.blk).getD (r + 4 * c) 0 = s.load (0x0040 + r + 4 * ((c + 4 - r) % 4)) := by
  have hrow : (r + 4 * c) % 4 = r := by omega
  have hcol : (r + 4 * c) / 4 = c := by omega
  rw [invShiftRows_getD _ (by omega), hrow, hcol, State.blk_getD s (by omega), Nat.add_assoc]

/-- Byte `j` of column `c`, where a function of a column is applied to the columns of BLK. -/
theorem onColumns_blk_getD {f : Byte → Byte → Byte → Byte → List Byte} (hf : ∀ a b c d, (f a b c d).length = 4)
    {c j : Nat} (hc : c < 4) (hj : j < 4) : (onColumns f s.blk).getD (4 * c + j) 0 =
      (f (s.load (0x0040 + 4 * c + 0)) (s.load (0x0040 + 4 * c + 1)) (s.load (0x0040 + 4 * c + 2))
        (s.load (0x0040 + 4 * c + 3))).getD j 0 := by
  have hcol (g : Nat → List Byte) : ((List.range 4).map g).getD c [] = g c := by simp [hc]
  have hfirst : s.blk.getD (4 * c) 0 = s.load (0x0040 + 4 * c + 0) := State.blk_getD s (by omega)
  have hload {k : Nat} (hk : k < 4) : s.blk.getD (4 * c + k) 0 = s.load (0x0040 + 4 * c + k) := by
    rw [State.blk_getD s (by omega), ← Nat.add_assoc]
  rw [onColumns, List.flatMap_def, flatten_getD (by simp [hf]) c hj, hcol, hfirst, hload (k := 1) (by decide),
    hload (k := 2) (by decide), hload (k := 3) (by decide)]

/-- A command that applies a function of a column to the columns of BLK leaves that function's bytes. -/
theorem exec_of_outcome_onColumns {i : Instr} {f : Byte → Byte → Byte → Byte → List Byte}
    (hf : ∀ a b c d, (f a b c d).length = 4) (h : outcome i s = .ok (s.setBlk (onColumns f s.blk)))
    (hlen : (onColumns f s.blk).length = 16) :
    ∃ t, exec i s = .next t ∧ Succeeded s t ∧ (∃ g, StoredOnly s t 0x0040 16 g) ∧ ∀ c < 4, ∀ j < 4,
      Memory.read t.mem (0x0040 + 4 * c + j) = some ((f (s.load (0x0040 + 4 * c + 0)) (s.load (0x0040 + 4 * c + 1))
        (s.load (0x0040 + 4 * c + 2)) (s.load (0x0040 + 4 * c + 3))).getD j 0) := by
  obtain ⟨t, ht, hsucc, hstored, hread⟩ := exec_of_outcome_setBlk h hlen
  refine ⟨t, ht, hsucc, hstored, fun c hc j hj => ?_⟩
  rw [Nat.add_assoc, hread _ (by omega), onColumns_blk_getD s hf hc hj]

end

/-! ### The obligations -/

/-- Settles O28: the outcome is the block store of the generated table. -/
theorem genSboxWritesTheAffineTable : Obligations.GenSboxWritesTheAffineTable := fun _ =>
  exec_of_outcome_storeBlock rfl (genTable_length _ _) fun _ hx => genTable_getD _ _ hx

/-- Settles O34: each outcome is the block store of a swap. -/
theorem derivationsSwapTheTables : Obligations.DerivationsSwapTheTables := fun _ =>
  ⟨exec_of_outcome_storeBlock rfl (swap_length _) fun _ _ => rfl,
    exec_of_outcome_storeBlock rfl (swap_length _) fun _ _ => rfl⟩

/-- Settles O38: with a bijective SBOX the outcome is the block store of the expanded key. -/
theorem keyExpandOutcome : Obligations.KeyExpandOutcome := by
  refine fun s => ⟨fun hdist => ?_, fun hrep => ?_⟩
  · have hbij := (bijective_sbox_iff s).mpr hdist
    exact exec_of_outcome_storeBlock (if_pos hbij) (keyExpansion_length _ _) fun _ _ => rfl
  · exact exec_of_outcome_error ((outcome_eq_nonBijectiveSbox_iff s .keyExpand).mpr (.inl ⟨.inl (by simp), hrep⟩))

/-- Settles O39: byte r + 4c of the two permutations. -/
theorem shiftCommandsRotateTheRows : Obligations.ShiftCommandsRotateTheRows := by
  intro s
  obtain ⟨t, ht, hsucc, hstored, hread⟩ := exec_of_outcome_setBlk (i := .shiftRows) (s := s) rfl (shiftRows_length _)
  obtain ⟨u, hu, hsucc', hstored', hread'⟩ :=
    exec_of_outcome_setBlk (i := .invShiftRows) (s := s) rfl (invShiftRows_length _)
  refine ⟨⟨t, ht, hsucc, hstored, fun r hr c hc => ?_⟩, ⟨u, hu, hsucc', hstored', fun r hr c hc => ?_⟩⟩
  · rw [Nat.add_assoc, hread _ (by omega), shiftRows_blk_getD s hr hc]
  · rw [Nat.add_assoc, hread' _ (by omega), invShiftRows_blk_getD s hr hc]

/-- Settles O40: each column of BLK goes through the function that writes the rows of the matrix out. -/
theorem mixCommandsMultiplyTheColumns : Obligations.MixCommandsMultiplyTheColumns := by
  intro s
  obtain ⟨t, ht, hsucc, hstored, hread⟩ := exec_of_outcome_onColumns s (i := .mixColumns) (f := mixColumn)
    (fun _ _ _ _ => rfl) rfl (mixColumns_length _)
  obtain ⟨u, hu, hsucc', hstored', hread'⟩ := exec_of_outcome_onColumns s (i := .invMixColumns) (f := invMixColumn)
    (fun _ _ _ _ => rfl) rfl (invMixColumns_length _)
  exact ⟨⟨t, ht, hsucc, hstored, fun c hc => ⟨hread c hc 0 (by decide), hread c hc 1 (by decide),
      hread c hc 2 (by decide), hread c hc 3 (by decide)⟩⟩,
    ⟨u, hu, hsucc', hstored', fun c hc => ⟨hread' c hc 0 (by decide), hread' c hc 1 (by decide),
      hread' c hc 2 (by decide), hread' c hc 3 (by decide)⟩⟩⟩

/-- Settles O41: for OPA up to 10 the outcome is the block store of the XOR. -/
theorem addRoundKeyOutcome : Obligations.AddRoundKeyOutcome := by
  refine fun s => ⟨fun hle => ?_, fun hgt => ?_⟩
  · exact exec_of_outcome_storeBlock (if_neg (Nat.not_lt.mpr hle)) (addRoundKey_length _ _ _) fun k hk =>
      addRoundKey_blk_expkey_getD s hle hk
  · exact exec_of_outcome_error (e := .invalidOperand) (if_pos hgt)

/-- Settles O42: with a bijective table the outcome is the block store of the substituted block. -/
theorem substitutionCommandsOutcome : Obligations.SubstitutionCommandsOutcome := by
  intro s
  have hlen (t : List Byte) : (substitute s.blk t).length = 16 := (substitute_length _ _).trans s.blk_length
  have fails {i : Instr} := fun h => exec_of_outcome_error ((outcome_eq_nonBijectiveSbox_iff s i).mpr h)
  refine ⟨fun hdist => ?_, fun hrep => fails (.inl ⟨.inl (by simp), hrep⟩), fun hdist => ?_,
    fun hrep => fails (.inr ⟨.inl (by simp), hrep⟩)⟩
  · exact exec_of_blkThrough rfl ((bijective_sbox_iff s).mpr hdist) (hlen _) fun k => substitute_blk_sbox_getD s
  · exact exec_of_blkThrough rfl ((bijective_isbox_iff s).mpr hdist) (hlen _) fun k => substitute_blk_isbox_getD s

/-- Settles O43: with a bijective table the outcome is the block store of the encrypted or decrypted block. -/
theorem blockCommandsOutcome : Obligations.BlockCommandsOutcome := by
  intro s
  have fails {i : Instr} := fun h => exec_of_outcome_error ((outcome_eq_nonBijectiveSbox_iff s i).mpr h)
  refine ⟨fun hdist => ?_, fun hrep => fails (.inl ⟨.inl (by simp), hrep⟩), fun hdist => ?_,
    fun hrep => fails (.inr ⟨.inl (by simp), hrep⟩)⟩
  · exact exec_of_blkThrough rfl ((bijective_sbox_iff s).mpr hdist) (cipher_length _ _ _) fun _ _ => rfl
  · exact exec_of_blkThrough rfl ((bijective_isbox_iff s).mpr hdist) (invCipher_length _ _ _) fun _ _ => rfl

end Sys2Proof.Machine

/-! What every step keeps (10_state.md R24 to R44, 60_exceptions.md R251, 70_reset_and_hazards.md R281, R291): what a
completed command may have written, what a host write may have changed, and from these two the frame of the commands,
the bytes a step may change, and the two invariants. -/

namespace Sys2Proof.Machine

open Sys2Proof.Safety

/-! ### What a command writes (R44) -/

theorem unpadLen_le (d : List Byte) : unpadLen d ≤ d.length := by
  by_cases h : EndsInRun d (d.getD (d.length - 1) 0).toNat
  · rw [unpadLen_of_endsInRun h]
    exact Nat.sub_le _ _
  · exact (unpadLen_of_not_endsInRun h).le

/-- The bytes after a store to EXPKEY and one to DOUT. -/
theorem State.read_setExpkey_setDout (s : State) (ek out : List Byte) (a : Nat) :
    Memory.read ((s.setExpkey ek).setDout out).mem a =
      if 0x8000 ≤ a ∧ a < 0x8000 + out.length then some (out.getD (a - 0x8000) 0)
      else if 0x0300 ≤ a ∧ a < 0x0300 + ek.length then some (ek.getD (a - 0x0300) 0)
      else Memory.read s.mem a := by
  rw [State.setDout_eq, State.read_storeBlock, State.setExpkey_eq, State.read_storeBlock]
  rfl

theorem pad_din_length (s : State) (n : Nat) : (pad (s.din n)).length = (n / 16 + 1) * 16 := by
  rw [pad_length, State.din, State.loadBlock_length]

/-- The encryption of DIN padded is as long as the padded DIN. -/
theorem cbcEncryptBlocks_pad_din_length (s : State) (ek t : List Byte) (n : Nat) :
    (cbcEncryptBlocks (pad (s.din n)) ek t s.iv).length = (n / 16 + 1) * 16 :=
  (cbcEncryptBlocks_length ek t ((pad_din_length s n).trans (Nat.mul_comm _ _)) s.iv).trans (Nat.mul_comm _ _)

/-- The decryption of whole blocks of DIN is as long as they are. -/
theorem cbcDecryptBlocks_din_length (s : State) (ek t : List Byte) {n : Nat} (h16 : n % 16 = 0) :
    (cbcDecryptBlocks (s.din n) ek t s.iv).length = n := by
  have hdin : (s.din n).length = 16 * (n / 16) := by
    rw [State.din, State.loadBlock_length]
    omega
  exact (cbcDecryptBlocks_length ek t hdin (s.loadBlock_length Item.iv.base 16)).trans (by omega)

/-- Where CBC_ENC succeeds, its ciphertext is as long as its row of R44 says. -/
theorem cbcEnc_ok {s t : State} (h : cbcEnc s = .ok t) : s.len.toNat < s.capacity ∧ ∃ ek out,
    t = ((s.setExpkey ek).setDout out).setOutLen out.length ∧ ek.length = 176 ∧
      out.length = (s.len.toNat / 16 + 1) * 16 := by
  rw [cbcEnc] at h
  split_ifs at h with hlen hbij
  obtain rfl := Except.ok.inj h
  have hout := cbcEncryptBlocks_pad_din_length s (keyExpansion s.key s.sbox) s.sbox s.len.toNat
  refine ⟨Nat.not_le.mp hlen, keyExpansion s.key s.sbox, _, ?_, keyExpansion_length _ _, hout⟩
  rw [hout, ← pad_din_length]
  rfl

/-- Where CBC_DEC succeeds, the decrypted sequence is as long as its row of R44 says. -/
theorem cbcDec_ok {s t : State} (h : cbcDec s = .ok t) : s.len.toNat ≤ s.capacity ∧ ∃ ek out n,
    t = ((s.setExpkey ek).setDout out).setOutLen n ∧ ek.length = 176 ∧ out.length = s.len.toNat ∧ n ≤ out.length := by
  rw [cbcDec] at h
  split_ifs at h with h16 hlen hbij
  obtain rfl := Except.ok.inj h
  exact ⟨Nat.not_lt.mp hlen, _, _, _, rfl, keyExpansion_length _ _,
    cbcDecryptBlocks_din_length s _ _ (not_not.mp h16), unpadLen_le _⟩

theorem blkThrough_ok {s t : State} {table out : List Byte} (h : blkThrough s table out = .ok t) :
    t = s.storeBlock 0x0040 out := by
  rw [blkThrough_eq] at h
  split_ifs at h
  exact (Except.ok.inj h).symm

/-- What a command that succeeds writes: RESULT, one block, or EXPKEY with DOUT and OUTLEN; each of the row of R44. -/
theorem outcome_ok_cases {i : Instr} {s t : State} (h : outcome i s = .ok t) :
    (∃ v, t = s.setResult v ∧ (writesResult i = false → v = s.result)) ∨
    (∃ base vs, t = s.storeBlock base vs ∧ writtenBytes i s = [(base, vs.length)]) ∨
    ((i = .cbcEnc ∨ i = .cbcDec) ∧ ∃ ek out n, t = ((s.setExpkey ek).setDout out).setOutLen n ∧ ek.length = 176 ∧
      writtenBytes i s = [(0x0300, ek.length), (0x8000, out.length)] ∧ n ≤ out.length ∧
      (BufBytes.wf s.bufBytes.toNat = true → out.length ≤ s.bufBytes.toNat)) := by
  have block {base n : Nat} {vs : List Byte} (ht : t = s.storeBlock base vs) (hlen : vs.length = n)
      (hw : writtenBytes i s = [(base, n)]) :
      ∃ base vs, t = s.storeBlock base vs ∧ writtenBytes i s = [(base, vs.length)] := ⟨base, vs, ht, hlen ▸ hw⟩
  cases i with
  | nop => exact .inl ⟨s.result, (Except.ok.inj h).symm, fun _ => rfl⟩
  | gfMul | gfInv | gfMul2 | gfMul3 | gfMul9 | gfMul11 | gfMul13 | gfMul14 =>
    exact .inl ⟨_, (Except.ok.inj h).symm, fun hw => absurd hw (by decide)⟩
  | genSbox => exact .inr (.inl (block (Except.ok.inj h).symm (genTable_length _ _) rfl))
  | genInvSbox | genFwdFromInv => exact .inr (.inl (block (Except.ok.inj h).symm (swap_length _) rfl))
  | keyExpand =>
    rw [outcome, keyExpand] at h
    split_ifs at h
    exact .inr (.inl (block (Except.ok.inj h).symm (keyExpansion_length _ _) rfl))
  | encBlock => exact .inr (.inl (block (blkThrough_ok h) (cipher_length _ _ _) rfl))
  | decBlock => exact .inr (.inl (block (blkThrough_ok h) (invCipher_length _ _ _) rfl))
  | subBytes | invSubBytes =>
    exact .inr (.inl (block (blkThrough_ok h) ((substitute_length _ _).trans s.blk_length) rfl))
  | shiftRows => exact .inr (.inl (block (Except.ok.inj h).symm (shiftRows_length _) rfl))
  | invShiftRows => exact .inr (.inl (block (Except.ok.inj h).symm (invShiftRows_length _) rfl))
  | mixColumns => exact .inr (.inl (block (Except.ok.inj h).symm (mixColumns_length _) rfl))
  | invMixColumns => exact .inr (.inl (block (Except.ok.inj h).symm (invMixColumns_length _) rfl))
  | addRoundKey =>
    rw [outcome, addRoundKeyByOpa] at h
    split_ifs at h
    exact .inr (.inl (block (Except.ok.inj h).symm (addRoundKey_length _ _ _) rfl))
  | cbcEnc =>
    obtain ⟨hlen, ek, out, ht, hek, hout⟩ := cbcEnc_ok h
    refine .inr (.inr ⟨.inl rfl, ek, out, _, ht, hek, by rw [hek, hout]; rfl, le_refl _, fun hwf => ?_⟩)
    simp only [BufBytes.wf, Bool.and_eq_true, decide_eq_true_eq] at hwf
    rw [State.capacity] at hlen
    omega
  | cbcDec =>
    obtain ⟨hlen, ek, out, n, ht, hek, hout, hn⟩ := cbcDec_ok h
    exact .inr (.inr ⟨.inr rfl, ek, out, n, ht, hek, by rw [hek, hout]; rfl, hn, fun _ => hout ▸ hlen⟩)

/-- No command raises the error of a byte that names none. -/
theorem outcome_ne_illegalCommand (i : Instr) (s : State) : outcome i s ≠ .error .illegalCommand := by
  have through (table out : List Byte) : blkThrough s table out ≠ .error .illegalCommand := by
    rw [blkThrough]; split_ifs <;> simp
  cases i with
  | keyExpand => rw [outcome, keyExpand]; split_ifs <;> simp
  | addRoundKey => rw [outcome, addRoundKeyByOpa]; split_ifs <;> simp
  | cbcEnc => rw [outcome, cbcEnc]; split_ifs <;> simp
  | cbcDec => rw [outcome, cbcDec]; split_ifs <;> simp
  | encBlock | decBlock | subBytes | invSubBytes => exact through _ _
  | _ => simp [outcome]

/-! ### Where the rows of R44 lie -/

/-- No row reaches KEY or IV. -/
theorem base_of_mem_writtenBytes {i : Instr} {s : State} : ∀ r ∈ writtenBytes i s, 0x0040 ≤ r.1 := by
  cases i <;> simp [writtenBytes]

/-- Only the rows of three commands reach EXPKEY. -/
theorem end_of_mem_writtenBytes {i : Instr} {s : State} (h : i ≠ .keyExpand ∧ i ≠ .cbcEnc ∧ i ≠ .cbcDec) :
    ∀ r ∈ writtenBytes i s, r.1 + r.2 ≤ 0x0300 := by
  cases i <;> simp_all [writtenBytes]

/-- A row of one block is BLK, SBOX, ISBOX or EXPKEY. -/
theorem mem_of_writtenBytes_eq {i : Instr} {s : State} {r : Nat × Nat} (h : writtenBytes i s = [r]) :
    r ∈ [(0x0040, 16), (0x0100, 256), (0x0200, 256), (0x0300, 176)] := by
  cases i <;> simp_all [writtenBytes, eq_comm]

/-! ### The frame of a completion -/

section
variable {i : Instr} {s t : State}

/-- A command that answers a next state has either succeeded or failed. -/
theorem exec_next_cases (h : exec i s = .next t) :
    (∃ u, outcome i s = .ok u ∧ t = u.succeed) ∨ ∃ e, outcome i s = .error e ∧ t = s.failWith e := by
  obtain rfl := Host.Outcome.next.inj ((exec_eq i s).symm.trans h)
  exact s.complete_cases (outcome i s)

theorem kept_of_outcome_ok (h : outcome i s = .ok t) : Kept s t := by
  obtain ⟨v, rfl, _⟩ | ⟨base, vs, rfl, _⟩ | ⟨_, ek, out, n, rfl, _⟩ := outcome_ok_cases h
  all_goals exact ⟨rfl, rfl, rfl, rfl, rfl, rfl, rfl, rfl, rfl, rfl⟩

/-- A byte outside the command's row reads as before. -/
theorem read_of_outcome_ok (h : outcome i s = .ok t) {a : Nat}
    (ha : ∀ r ∈ writtenBytes i s, ¬ (r.1 ≤ a ∧ a < r.1 + r.2)) : Memory.read t.mem a = Memory.read s.mem a := by
  obtain ⟨v, rfl, _⟩ | ⟨base, vs, rfl, hw⟩ | ⟨_, ek, out, n, rfl, _, hw, _⟩ := outcome_ok_cases h
  · rfl
  · rw [State.read_storeBlock, if_neg (ha (base, vs.length) (by simp [hw]))]
  · rw [State.setOutLen_mem, State.read_setExpkey_setDout, if_neg (ha (0x8000, out.length) (by simp [hw])),
      if_neg (ha (0x0300, ek.length) (by simp [hw]))]

/-- A completion that changes what a byte reads as is a success with that byte in its row. -/
theorem of_complete_changes {a : Nat}
    (h : Memory.read (s.complete (outcome i s)).mem a ≠ Memory.read s.mem a) :
    (s.complete (outcome i s)).err = false ∧ ∃ r ∈ writtenBytes i s, r.1 ≤ a ∧ a < r.1 + r.2 := by
  obtain ⟨u, hu, ht⟩ | ⟨e, _, ht⟩ := s.complete_cases (outcome i s) <;> rw [ht] at h ⊢
  · refine ⟨rfl, ?_⟩
    by_contra hrow
    push Not at hrow
    exact h (read_of_outcome_ok hu fun r hr => by have := hrow r hr; omega)
  · exact absurd rfl h

end

/-! ### What a host transaction changes -/

theorem busRead_mem (s : State) (a : Nat) : (s.busRead a).mem = s.mem := by
  obtain hb | hb := Bool.eq_false_or_eq_true s.busy
  · rw [busRead_busy hb]; rfl
  · rw [busRead_idle hb]; rfl

/-- A write to an item issues a command, changes a register, or is a store to one of the host's data stores. A write to
an item the host may only read counts as a change of registers to what they are. -/
theorem State.setItemByte_cases (s : State) (it : Item) (k : Nat) (v : Byte) :
    s.setItemByte it k v = s.accept v ∨
    (∃ x y l, s.setItemByte it k v = { s with opa := x, opb := y, len := l }) ∨
    (it.hostWritable = true ∧ it.isStore = true ∧ s.setItemByte it k v = s.storeByte (it.base + k) v) := by
  cases it with
  | cmd => exact .inl rfl
  | opa => exact .inr (.inl ⟨v, s.opb, s.len, rfl⟩)
  | opb => exact .inr (.inl ⟨s.opa, v, s.len, rfl⟩)
  | len => exact .inr (.inl ⟨s.opa, s.opb, _, rfl⟩)
  | matrix | const | key | iv | blk | sbox | isbox | din => exact .inr (.inr ⟨rfl, rfl, rfl⟩)
  | _ => exact .inr (.inl ⟨s.opa, s.opb, s.len, rfl⟩)

/-- A host write is dropped, issues a command, changes a register, or stores the byte in one of the host's data
stores. -/
theorem State.busWrite_cases (s : State) (a : Nat) (v : Byte) :
    (s.busy = true ∧ s.busWrite a v = s.dropWrite) ∨
    (s.busy = false ∧ s.busWrite a v = s.accept v) ∨
    (∃ x y l, s.busWrite a v = { s with opa := x, opb := y, len := l }) ∨
    (s.busy = false ∧ s.busWrite a v = s.storeByte a v ∧
      ∃ it : Item, it.hostWritable = true ∧ it.isStore = true ∧ it.base ≤ a ∧ a < it.base + it.size s.capacity) := by
  obtain hb | hb := Bool.eq_false_or_eq_true s.busy
  · exact .inl ⟨hb, busWrite_busy hb a v⟩
  rw [busWrite_idle hb]
  cases hit : itemAt s.capacity a with
  | none => exact .inr (.inr (.inl ⟨s.opa, s.opb, s.len, rfl⟩))
  | some it =>
    obtain ⟨hlo, hhi⟩ := holds_of_itemAt hit
    obtain h | h | ⟨hw, hst, h⟩ := s.setItemByte_cases it (a - it.base) v
    · exact .inr (.inl ⟨hb, h⟩)
    · exact .inr (.inr (.inl h))
    · rw [Nat.add_sub_cancel' hlo] at h
      exact .inr (.inr (.inr ⟨hb, h, it, hw, hst, hlo, hhi⟩))

/-- A host write that changes what a byte reads as is an idle write to it, in one of the host's data stores. -/
theorem of_busWrite_changes {s : State} {a c : Nat} {v : Byte}
    (h : Memory.read (s.busWrite a v).mem c ≠ Memory.read s.mem c) :
    s.busy = false ∧ a = c ∧ ∃ it : Item, it.hostWritable = true ∧ it.isStore = true ∧ it.base ≤ a ∧
      a < it.base + it.size s.capacity := by
  obtain ⟨_, ht⟩ | ⟨_, ht⟩ | ⟨x, y, l, ht⟩ | ⟨hb, ht, hit⟩ := s.busWrite_cases a v <;> rw [ht] at h
  · exact absurd rfl h
  · exact absurd rfl h
  · exact absurd rfl h
  · refine ⟨hb, ?_, hit⟩
    by_contra hne
    exact h (Memory.read_write_other _ v (Ne.symm hne))

/-- A step that changes what a byte of a data store reads as is a reset, a command's success with that byte in its row,
or an idle write to that byte. -/
theorem of_step_changes {s t : State} {a : Nat} (hstep : step s = .next t)
    (h : Memory.read t.mem a ≠ Memory.read s.mem a) :
    s.schedule.head? = some .reset ∨
    (s.busy = true ∧ t.err = false ∧ UnitsTurn s.schedule ∧
      ∃ i, decode s.lastCmd = .ok i ∧ ∃ u : State, ∃ r ∈ writtenBytes i u, r.1 ≤ a ∧ a < r.1 + r.2) ∨
    (s.busy = false ∧ ∃ addr v, s.schedule.head? = some (.write addr v) ∧ addr.toNat = a ∧
      ∃ it : Item, it.hostWritable = true ∧ it.isStore = true ∧ it.base ≤ a ∧ a < it.base + it.size s.capacity) := by
  obtain ⟨t', ht', hcases⟩ := step_cases s
  obtain rfl : t' = t := Host.Outcome.next.inj (ht'.symm.trans hstep)
  obtain ⟨es, hes, hturn⟩ | ⟨b, es, _, rfl⟩ | ⟨b, v, es, hes, rfl⟩ | ⟨es, hes, rfl⟩ := hcases
  · have hunit : UnitsTurn s.schedule := hes.imp And.left fun hc => by rw [hc, List.head?_cons]
    obtain ⟨_, rfl⟩ | ⟨hb, i, hi, rfl⟩ | ⟨_, _, rfl⟩ := hturn
    · exact absurd rfl h
    · obtain ⟨herr, hrow⟩ := of_complete_changes h
      exact .inr (.inl ⟨hb, herr, hunit, i, hi, _, hrow⟩)
    · exact absurd rfl h
  · exact absurd (congrArg (Memory.read · a) (busRead_mem _ _)) h
  · obtain ⟨hb, rfl, hit⟩ := of_busWrite_changes (s := s.setSchedule es) h
    exact .inr (.inr ⟨hb, b, v, by rw [hes, List.head?_cons], rfl, hit⟩)
  · exact .inl (by rw [hes, List.head?_cons])

/-! ### The lifecycle invariant -/

/-- Any completion meets the lifecycle invariant, whatever the state before it was. -/
theorem lifecycle_complete (s : State) (r : CmdResult) : Lifecycle (s.complete r) := by
  cases r with
  | ok t => simp [Lifecycle]
  | error e => cases e <;> simp [Lifecycle, CmdError.code]

/-- So does any acceptance. -/
theorem lifecycle_accept (s : State) (v : Byte) : Lifecycle (s.accept v) := by simp [Lifecycle]

theorem lifecycle_hardReset (s : State) : Lifecycle s.hardReset := by simp [Lifecycle]

theorem lifecycle_dropWrite {s : State} (hb : s.busy = true) (h : Lifecycle s) : Lifecycle s.dropWrite := by
  obtain ⟨hbusy, herr, _, hcode, hmem, hfirst⟩ := h
  exact ⟨hbusy, herr, fun _ => .inl hb, hcode, hmem, hfirst⟩

theorem lifecycle_busRead {s : State} (h : Lifecycle s) (a : Nat) : Lifecycle (s.busRead a) := by
  obtain hb | hb := Bool.eq_false_or_eq_true s.busy
  · rw [busRead_busy hb]; exact h
  · rw [busRead_idle hb]; exact h

theorem lifecycle_busWrite {s : State} (h : Lifecycle s) (a : Nat) (v : Byte) : Lifecycle (s.busWrite a v) := by
  obtain ⟨hb, ht⟩ | ⟨_, ht⟩ | ⟨x, y, l, ht⟩ | ⟨_, ht, _⟩ := s.busWrite_cases a v <;> rw [ht]
  · exact lifecycle_dropWrite hb h
  · exact lifecycle_accept s v
  · exact h
  · exact h

/-! ### The storage invariant -/

/-- The storage invariant is about BUF_BYTES, memory and OUTLEN. -/
theorem storage_congr {s t : State} (hbuf : t.bufBytes = s.bufBytes) (hmem : t.mem = s.mem)
    (hout : t.outLen = s.outLen) (h : Storage s) : Storage t := by
  simpa only [Storage, State.defined, IsHostStore, IsEngineStore, hbuf, hmem, hout] using h

theorem storage_hardReset {s : State} (hbuf : BufBytes.wf s.bufBytes.toNat = true) : Storage s.hardReset :=
  ⟨hbuf, Memory.wf_nil, by simp, .inr fun _ _ => rfl, by simp, by simp [State.defined]⟩

/-- A block store keeps what is defined. -/
theorem State.isSome_read_storeBlock (s : State) (base : Nat) (vs : List Byte) (a : Nat) :
    (Memory.read (s.storeBlock base vs).mem a).isSome = true ↔
      (base ≤ a ∧ a < base + vs.length) ∨ (Memory.read s.mem a).isSome = true := by
  rw [State.read_storeBlock]
  split_ifs with h <;> simp [h]

theorem State.defined_storeBlock {s : State} {b n : Nat} (h : s.defined b n = true) (base : Nat) (vs : List Byte) :
    (s.storeBlock base vs).defined b n = true := by
  rw [State.defined_iff] at h ⊢
  exact fun k hk => (s.isSome_read_storeBlock base vs _).mpr (.inr (h k hk))

theorem State.defined_storeBlock_self (s : State) (base : Nat) {vs : List Byte} {n : Nat} (h : n ≤ vs.length) :
    (s.storeBlock base vs).defined base n = true :=
  State.defined_iff.mpr fun k hk => (s.isSome_read_storeBlock base vs _).mpr (.inl (by omega))

/-- A store of bytes of data stores keeps the storage invariant where it covers all of EXPKEY or none of it. -/
theorem storage_storeBlock {s : State} (h : Storage s) {base : Nat} {vs : List Byte}
    (hstore : ∀ a, base ≤ a → a < base + vs.length → IsHostStore s a ∨ IsEngineStore s a)
    (hexp : (base = 0x0300 ∧ vs.length = 176) ∨ base + vs.length ≤ 0x0300 ∨ 0x03B0 ≤ base) :
    Storage (s.storeBlock base vs) := by
  obtain ⟨hbuf, hwf, hcells, hek, hout, hdout⟩ := h
  refine ⟨hbuf, Memory.wf_writeBlock hwf base vs, fun c hc => ?_, ?_, hout, State.defined_storeBlock hdout base vs⟩
  · obtain ⟨hlo, hhi⟩ | hold := Memory.mem_writeBlock.mp (List.mem_map_of_mem (f := Prod.fst) hc)
    · exact hstore c.1 hlo hhi
    · obtain ⟨c', hc', heq⟩ := List.mem_map.mp hold
      exact heq ▸ hcells c' hc'
  · obtain ⟨rfl, hlen⟩ | hout := hexp
    · exact .inl (s.defined_storeBlock_self _ hlen.ge)
    · refine hek.imp (State.defined_storeBlock · base vs) fun hnone k hk => ?_
      rw [State.read_storeBlock, if_neg (by omega), hnone k hk]

theorem storage_setOutLen {s : State} (h : Storage s) {n : Nat} (hn : n ≤ s.bufBytes.toNat)
    (hdout : s.defined 0x8000 n = true) : Storage (s.setOutLen n) := by
  obtain ⟨hbuf, hwf, hcells, hek, _, _⟩ := h
  have hmod : (BitVec.ofNat 16 n).toNat = n := by
    rw [BitVec.toNat_ofNat, Nat.mod_eq_of_lt (lt_of_le_of_lt hn s.bufBytes.isLt)]
  refine ⟨hbuf, hwf, hcells, hek, ?_, ?_⟩ <;> rw [State.setOutLen_outLen, hmod]
  · exact hn
  · exact hdout

/-- A command's writes keep the storage invariant. -/
theorem storage_of_outcome_ok {i : Instr} {s t : State} (h : Storage s) (hok : outcome i s = .ok t) : Storage t := by
  obtain ⟨v, rfl, _⟩ | ⟨base, vs, rfl, hw⟩ | ⟨_, ek, out, n, rfl, hek, _, hn, hfits⟩ := outcome_ok_cases hok
  · exact storage_congr rfl rfl rfl h
  · have hrow := mem_of_writtenBytes_eq hw
    simp only [List.mem_cons, Prod.mk.injEq, List.not_mem_nil, or_false] at hrow
    refine storage_storeBlock h (fun a hlo hhi => ?_) ?_
    · simp only [IsHostStore, IsEngineStore]
      omega
    · omega
  · have hout : out.length ≤ s.bufBytes.toNat := hfits h.1
    have hexp : Storage (s.setExpkey ek) := by
      refine storage_storeBlock h (fun a hlo hhi => .inr (.inl ⟨hlo, ?_⟩)) (.inl ⟨rfl, hek⟩)
      rw [hek, Item.base] at hhi
      omega
    have hdout : Storage ((s.setExpkey ek).setDout out) :=
      storage_storeBlock hexp (fun a hlo hhi => .inr (.inr ⟨hlo, lt_of_lt_of_le hhi (Nat.add_le_add_left hout _)⟩))
        (.inr (.inr (by decide)))
    exact storage_setOutLen hdout (hn.trans hout) (State.defined_storeBlock_self _ _ hn)

theorem storage_complete {i : Instr} {s : State} (h : Storage s) : Storage (s.complete (outcome i s)) := by
  obtain ⟨t, hok, ht⟩ | ⟨e, _, ht⟩ := s.complete_cases (outcome i s) <;> rw [ht]
  · exact storage_congr (s := t) rfl rfl rfl (storage_of_outcome_ok h hok)
  · exact storage_congr rfl rfl rfl h

theorem storage_busRead {s : State} (h : Storage s) (a : Nat) : Storage (s.busRead a) := by
  obtain hb | hb := Bool.eq_false_or_eq_true s.busy
  · rw [busRead_busy hb]; exact h
  · rw [busRead_idle hb]; exact h

/-- An address of a data store the host may write is in the class of the statements. -/
theorem isHostStore_of_hostWritable {s : State} {it : Item} {a : Nat} (hw : it.hostWritable = true)
    (hst : it.isStore = true) (hlo : it.base ≤ a) (hhi : a < it.base + it.size s.capacity) : IsHostStore s a := by
  cases it with
  | matrix | const | key | iv | blk | sbox | isbox | din =>
    simp only [Item.base, Item.size, State.capacity, IsHostStore] at hlo hhi ⊢
    omega
  | cmd | opa | opb | len => exact absurd hst Bool.false_ne_true
  | _ => exact absurd hw Bool.false_ne_true

theorem storage_busWrite {s : State} (h : Storage s) (a : Nat) (v : Byte) : Storage (s.busWrite a v) := by
  obtain ⟨_, ht⟩ | ⟨_, ht⟩ | ⟨x, y, l, ht⟩ | ⟨_, ht, it, hw, hst, hlo, hhi⟩ := s.busWrite_cases a v <;> rw [ht]
  · exact h
  · exact h
  · exact h
  · have hhost := isHostStore_of_hostWritable hw hst hlo hhi
    refine storage_storeBlock (vs := [v]) h (fun c hc hc' => ?_) ?_
    · obtain rfl : c = a := by simp at hc'; omega
      exact .inl hhost
    · simp only [IsHostStore, List.length_singleton] at hhost ⊢
      omega

/-! ### The obligations -/

/-- Settles O57: a completion and an acceptance meet the invariant outright, and no other event reaches its items but a
dropped write, which sets OVR while BUSY is 1. -/
theorem stepKeepsLifecycle : Obligations.StepKeepsLifecycle := by
  intro s t h hstep
  obtain ⟨t', ht', hcases⟩ := step_cases s
  obtain rfl : t' = t := Host.Outcome.next.inj (ht'.symm.trans hstep)
  obtain ⟨es, _, hturn⟩ | ⟨a, es, _, rfl⟩ | ⟨a, v, es, _, rfl⟩ | ⟨es, _, rfl⟩ := hcases
  · obtain ⟨_, rfl⟩ | ⟨_, i, _, rfl⟩ | ⟨_, _, rfl⟩ := hturn
    · exact h
    · exact lifecycle_complete _ _
    · exact lifecycle_complete _ (.error .illegalCommand)
  · exact lifecycle_busRead (s := s.setSchedule es) h _
  · exact lifecycle_busWrite (s := s.setSchedule es) h _ _
  · exact lifecycle_hardReset _

/-- Settles O58: a command's row covers all of EXPKEY or none of it, and its OUTLEN counts bytes it has stored in DOUT;
a host write is to one of the host's data stores. -/
theorem stepKeepsStorage : Obligations.StepKeepsStorage := by
  intro s t h hstep
  obtain ⟨t', ht', hcases⟩ := step_cases s
  obtain rfl : t' = t := Host.Outcome.next.inj (ht'.symm.trans hstep)
  obtain ⟨es, _, hturn⟩ | ⟨a, es, _, rfl⟩ | ⟨a, v, es, _, rfl⟩ | ⟨es, _, rfl⟩ := hcases
  · obtain ⟨_, rfl⟩ | ⟨_, i, _, rfl⟩ | ⟨_, _, rfl⟩ := hturn
    · exact h
    · exact storage_complete (s := s.setSchedule es) h
    · exact h
  · exact storage_busRead (s := s.setSchedule es) h _
  · exact storage_busWrite (s := s.setSchedule es) h _ _
  · exact storage_hardReset h.1

/-- Settles O21: reset leaves what a reset event leaves, with a legal BUF_BYTES. -/
theorem resetMeetsTheInvariants : Obligations.ResetMeetsTheInvariants :=
  ⟨lifecycle_hardReset State.reset, storage_congr rfl rfl rfl (storage_hardReset (s := State.reset) (by decide))⟩

/-- Settles O7: a command's outcome keeps LASTCMD and OVR, and no outcome is the error of a byte that names no
command. -/
theorem everyCommandCompletes : Obligations.EveryCommandCompletes := by
  intro i s
  refine ⟨_, exec_eq i s, ?_⟩
  obtain ⟨t, hok, ht⟩ | ⟨e, herr, ht⟩ := s.complete_cases (outcome i s) <;> rw [ht]
  · obtain ⟨hcmd, hovr, _⟩ := kept_of_outcome_ok hok
    exact ⟨rfl, rfl, hcmd, hovr, .inl ⟨rfl, rfl⟩⟩
  · have hne : e ≠ .illegalCommand := fun he => outcome_ne_illegalCommand i s (he ▸ herr)
    refine ⟨rfl, rfl, rfl, rfl, .inr ⟨rfl, ?_⟩⟩
    cases e <;> simp_all [CmdError.code]

/-- Settles O9: a failure writes no item of the statement, and a success only what `outcome_ok_cases` lists. -/
theorem commandsWriteOnlyTheirRow : Obligations.CommandsWriteOnlyTheirRow := by
  intro i s t hexec
  obtain ⟨u, hok, rfl⟩ | ⟨e, _, rfl⟩ := exec_next_cases hexec
  · have hkept := kept_of_outcome_ok hok
    have hread (a : Nat) := read_of_outcome_ok hok (a := a)
    refine ⟨hkept, ?_, ?_, hread⟩
    · obtain ⟨v, rfl, hv⟩ | ⟨base, vs, rfl, _⟩ | ⟨_, ek, out, n, rfl, _⟩ := outcome_ok_cases hok
      · exact hv
      · exact fun _ => rfl
      · exact fun _ => rfl
    · obtain ⟨v, rfl, _⟩ | ⟨base, vs, rfl, _⟩ | ⟨hcbc, _⟩ := outcome_ok_cases hok
      · exact fun _ _ => rfl
      · exact fun _ _ => rfl
      · exact fun henc hdec => absurd hcbc (not_or_intro henc hdec)
  · exact ⟨⟨rfl, rfl, rfl, rfl, rfl, rfl, rfl, rfl, rfl, rfl⟩, fun _ => rfl, fun _ _ => rfl, fun _ _ => rfl⟩

/-- Settles O10: no row of a command reaches KEY or IV. -/
theorem keyAndIvChangeOnlyByHostOrReset : Obligations.KeyAndIvChangeOnlyByHostOrReset := by
  intro s t a hlo hhi hstep hne
  obtain hreset | ⟨_, _, _, i, _, u, r, hr, hrlo, _⟩ | ⟨hb, addr, v, hhead, ha, _⟩ := of_step_changes hstep hne
  · exact .inl hreset
  · have hbase := base_of_mem_writtenBytes r hr
    omega
  · exact .inr ⟨hb, addr, v, hhead, ha⟩

/-- Settles O11: only the rows of the three commands reach EXPKEY, and no data store of the host does. -/
theorem expandedKeyGoesStale : Obligations.ExpandedKeyGoesStale := by
  intro s t a hlo hhi hstep hne
  obtain hreset | ⟨hb, herr, hunit, i, hi, u, r, hr, _, hrhi⟩ | ⟨_, _, _, _, _, it, hw, hst, hitlo, hithi⟩ :=
    of_step_changes hstep hne
  · exact .inl hreset
  · refine .inr ⟨hb, herr, hunit, ?_⟩
    by_contra hthree
    have hother : i ≠ .keyExpand ∧ i ≠ .cbcEnc ∧ i ≠ .cbcDec := by
      refine ⟨?_, ?_, ?_⟩ <;> rintro rfl <;> simp [hi] at hthree
    have hend := end_of_mem_writtenBytes hother r hr
    omega
  · have hhost := isHostStore_of_hostWritable hw hst hitlo hithi
    simp only [IsHostStore] at hhost
    omega

end Sys2Proof.Machine

/-! The ring of bytes (40_gf_arithmetic.md R110, R112, R121): gmul as the product of polynomials modulo 0x11B. Both
sides are additive in each factor, so it is enough to look at the products of two single bits. -/

namespace Sys2Proof.Machine

open Sys2Proof.Safety

/-! ### The unreduced product is additive -/

/-- One step of polyMul for bit `i` of the second factor. -/
def polyMulStep (a b acc : BitVec 16) (i : Nat) : BitVec 16 := if b.getLsbD i then acc ^^^ (a <<< i) else acc

theorem polyMul_eq_foldl (a b : BitVec 16) : polyMul a b = (List.range 9).foldl (polyMulStep a b) 0 := rfl

theorem polyMulStep_xor_left (a a' b p p' : BitVec 16) (i : Nat) :
    polyMulStep (a ^^^ a') b (p ^^^ p') i = polyMulStep a b p i ^^^ polyMulStep a' b p' i := by
  rw [polyMulStep, polyMulStep, polyMulStep, BitVec.shiftLeft_xor_distrib]
  split
  · ac_rfl
  · rfl

theorem polyMulStep_xor_right (a b b' p p' : BitVec 16) (i : Nat) :
    polyMulStep a (b ^^^ b') (p ^^^ p') i = polyMulStep a b p i ^^^ polyMulStep a b' p' i := by
  rw [polyMulStep, polyMulStep, polyMulStep, BitVec.getLsbD_xor]
  cases b.getLsbD i <;> cases b'.getLsbD i <;> simp only [Bool.xor_self, Bool.xor_true, Bool.xor_false, Bool.not_false,
    Bool.false_eq_true, if_true, if_false]
  · ac_rfl
  · ac_rfl
  · calc p ^^^ p' = p ^^^ p' ^^^ (a <<< i ^^^ a <<< i) := by rw [BitVec.xor_self, BitVec.xor_zero]
      _ = p ^^^ a <<< i ^^^ (p' ^^^ a <<< i) := by ac_rfl

/-- What is additive in its accumulator at each step of a pass is additive over the pass. -/
theorem foldl_xor {α : Type} {f g h : BitVec 16 → α → BitVec 16}
    (hstep : ∀ p p' i, h (p ^^^ p') i = f p i ^^^ g p' i) (is : List α) (p p' : BitVec 16) :
    is.foldl h (p ^^^ p') = is.foldl f p ^^^ is.foldl g p' := by
  induction is generalizing p p' with
  | nil => rfl
  | cons i is ih => rw [List.foldl_cons, hstep, ih, List.foldl_cons, List.foldl_cons]

theorem polyMul_xor_left (a a' b : BitVec 16) : polyMul (a ^^^ a') b = polyMul a b ^^^ polyMul a' b :=
  foldl_xor (polyMulStep_xor_left a a' b) (List.range 9) 0 0

theorem polyMul_xor_right (a b b' : BitVec 16) : polyMul a (b ^^^ b') = polyMul a b ^^^ polyMul a b' :=
  foldl_xor (polyMulStep_xor_right a b b') (List.range 9) 0 0

/-! ### What is left of it modulo 0x11B -/

/-- The unreduced product of two bytes is a multiple of 0x11B by a byte, plus gmul's byte (R112). -/
def ReducesToGmul (a b : Byte) : Prop :=
  ∃ q : Byte, polyMul (a.setWidth 16) (b.setWidth 16) = polyMul (q.setWidth 16) 0x011B ^^^ (gmul a b).setWidth 16

theorem reducesToGmul_xor_left {a a' b : Byte} (h : ReducesToGmul a b) (h' : ReducesToGmul a' b) :
    ReducesToGmul (a ^^^ a') b := by
  obtain ⟨q, hq⟩ := h
  obtain ⟨q', hq'⟩ := h'
  refine ⟨q ^^^ q', ?_⟩
  rw [BitVec.setWidth_xor, BitVec.setWidth_xor, polyMul_xor_left, polyMul_xor_left, hq, hq', gmul_xor_left,
    BitVec.setWidth_xor]
  ac_rfl

theorem reducesToGmul_xor_right {a b b' : Byte} (h : ReducesToGmul a b) (h' : ReducesToGmul a b') :
    ReducesToGmul a (b ^^^ b') := by
  obtain ⟨q, hq⟩ := h
  obtain ⟨q', hq'⟩ := h'
  refine ⟨q ^^^ q', ?_⟩
  rw [BitVec.setWidth_xor, BitVec.setWidth_xor, polyMul_xor_right, polyMul_xor_left, hq, hq', gmul_xor_right,
    BitVec.setWidth_xor]
  ac_rfl

/-- A byte is the XOR of its bits. -/
theorem eq_foldl_bits (b : Byte) :
    b = (List.range 8).foldl (fun acc i => acc ^^^ bif b.getLsbD i then BitVec.twoPow 8 i else 0x00) 0x00 := by
  revert b
  decide +kernel

/-- What holds of the single bits, and of the XOR of two bytes of which it holds, holds of every byte. -/
theorem byte_bit_induction {P : Byte → Prop} (bit : ∀ i < 8, P (BitVec.twoPow 8 i))
    (xor : ∀ a b, P a → P b → P (a ^^^ b)) (b : Byte) : P b := by
  have zero : P 0x00 := xor _ _ (bit 0 (by decide)) (bit 0 (by decide))
  rw [eq_foldl_bits b]
  refine List.foldlRecOn (motive := P) _ _ zero fun acc hacc i hi => xor _ _ hacc ?_
  cases b.getLsbD i
  · exact zero
  · exact bit i (List.mem_range.mp hi)

/-- The quotient of x^n by the polynomial 0x11B, for `n` up to 14. -/
def powerQuotient (n : Nat) : Byte :=
  [0x00, 0x00, 0x00, 0x00, 0x00, 0x00, 0x00, 0x00, 0x01, 0x02, 0x04, 0x08, 0x11, 0x23, 0x46].getD n 0x00

theorem polyMul_twoPow : ∀ i < 8, ∀ j < 8,
    polyMul ((BitVec.twoPow 8 i).setWidth 16) ((BitVec.twoPow 8 j).setWidth 16) =
      polyMul ((powerQuotient (i + j)).setWidth 16) 0x011B ^^^
        (gmul (BitVec.twoPow 8 i) (BitVec.twoPow 8 j)).setWidth 16 := by
  decide +kernel

theorem reducesToGmul (a b : Byte) : ReducesToGmul a b := by
  induction a using byte_bit_induction with
  | bit i hi =>
    induction b using byte_bit_induction with
    | bit j hj => exact ⟨_, polyMul_twoPow i hi j hj⟩
    | xor b b' ih ih' => exact reducesToGmul_xor_right ih ih'
  | xor a a' ih ih' => exact reducesToGmul_xor_left ih ih'

/-! ### The obligations -/

/-- Settles O24: the laws of gmul proved with R110's loop. -/
theorem gmulMakesARing : Obligations.GmulMakesARing :=
  ⟨gmul_comm, gmul_assoc, gmul_xor_right, gmul_one_left, gmul_zero_left⟩

/-- Settles O25: by additivity from the products of two single bits. -/
theorem gmulIsThePolynomialProduct : Obligations.GmulIsThePolynomialProduct := reducesToGmul

end Sys2Proof.Machine

/-! Swap of a table that is not bijective (41_sbox.md R144, R147): each value maps to the last index that holds it, so
the swap is bijective exactly when the indices above 0 hold different values. -/

namespace Sys2Proof.Machine

/-! ### Swap as a map -/

/-- A value that the table holds goes to an index that holds it, the last one. -/
theorem tableMap_swap_of_mem_range {t : List Byte} {y : Byte} (h : ∃ x, tableMap t x = y) :
    tableMap t (tableMap (swap t) y) = y ∧ ∀ x, tableMap t x = y → x.toNat ≤ (tableMap (swap t) y).toNat := by
  obtain ⟨m, hm, hmax⟩ := Set.exists_max_image {x | tableMap t x = y} BitVec.toNat (Set.toFinite _) h
  have hlast : ∀ z < 256, m.toNat < z → (t.getD z 0).toNat ≠ y.toNat :=
    forall_byte_toNat_iff.mp fun z hlt heq => Nat.not_lt.mpr (hmax z (BitVec.eq_of_toNat_eq heq)) hlt
  have hswap : tableMap (swap t) y = m := by
    rw [tableMap, swap_eq_swapPass,
      swapPass_getD_of_last_index t 256 y.isLt m.isLt (congrArg BitVec.toNat hm) hlast, byte_ofNat_toNat]
  rw [hswap]
  exact ⟨hm, hmax⟩

/-- A value that the table does not hold goes to 0. -/
theorem tableMap_swap_of_not_mem_range {t : List Byte} {y : Byte} (h : ∀ x, tableMap t x ≠ y) :
    tableMap (swap t) y = 0x00 := by
  rw [tableMap, swap_eq_swapPass]
  refine swapPass_getD_of_no_index t 256 y.isLt (forall_byte_toNat_iff.mp fun x heq => h x ?_)
  exact BitVec.eq_of_toNat_eq heq

/-- A value that the table holds at an index above 0 does not go to 0. -/
theorem tableMap_swap_ne_zero {t : List Byte} {x : Byte} (hx : x ≠ 0x00) : tableMap (swap t) (tableMap t x) ≠ 0x00 := by
  intro hzero
  have hle := (tableMap_swap_of_mem_range (t := t) ⟨x, rfl⟩).2 x rfl
  rw [hzero] at hle
  exact hx (BitVec.eq_of_toNat_eq (Nat.le_zero.mp hle))

/-! ### When it is injective -/

/-- Where the indices above 0 hold different values, a value that is not held is the only one that goes to 0: with it at
index 0 the table would hold every value. -/
theorem eq_of_tableMap_swap_eq_zero {t : List Byte} (h : Set.InjOn (tableMap t) {0x00}ᶜ) {y z : Byte}
    (hy : ∀ x, tableMap t x ≠ y) (hz : tableMap (swap t) z = 0x00) : z = y := by
  have hfilled : Function.Injective (Function.update (tableMap t) 0x00 y) := by
    intro a b hab
    by_cases ha : a = 0x00 <;> by_cases hb : b = 0x00
    · rw [ha, hb]
    · rw [ha, Function.update_self, Function.update_of_ne hb] at hab
      exact absurd hab.symm (hy b)
    · rw [hb, Function.update_self, Function.update_of_ne ha] at hab
      exact absurd hab (hy a)
    · rw [Function.update_of_ne ha, Function.update_of_ne hb] at hab
      exact h ha hb hab
  obtain ⟨x, hx⟩ := Finite.surjective_of_injective hfilled z
  by_cases hx0 : x = 0x00
  · rw [← hx, hx0, Function.update_self]
  · rw [← hx, Function.update_of_ne hx0] at hz
    exact absurd hz (tableMap_swap_ne_zero hx0)

/-- The swap is injective exactly when the indices above 0 hold different values. -/
theorem tableMap_swap_injective_iff {t : List Byte} :
    Function.Injective (tableMap (swap t)) ↔ Set.InjOn (tableMap t) {0x00}ᶜ := by
  constructor
  · intro hinj a ha b hb hab
    have hback : ∀ x : Byte, x ≠ 0x00 → tableMap (swap t) (tableMap t x) = x := by
      intro x hx
      obtain ⟨y, hy⟩ := Finite.surjective_of_injective hinj x
      have hheld : ∃ z, tableMap t z = y := by
        by_contra hnone
        exact hx (hy.symm.trans (tableMap_swap_of_not_mem_range (not_exists.mp hnone)))
      rw [← hy, (tableMap_swap_of_mem_range hheld).1]
    rw [← hback a ha, hab, hback b hb]
  · intro h y z hyz
    by_cases hy : ∃ x, tableMap t x = y
    · by_cases hz : ∃ x, tableMap t x = z
      · rw [← (tableMap_swap_of_mem_range hy).1, hyz, (tableMap_swap_of_mem_range hz).1]
      · rw [tableMap_swap_of_not_mem_range (not_exists.mp hz)] at hyz
        exact eq_of_tableMap_swap_eq_zero h (not_exists.mp hz) hyz
    · rw [tableMap_swap_of_not_mem_range (not_exists.mp hy)] at hyz
      exact (eq_of_tableMap_swap_eq_zero h (not_exists.mp hy) hyz.symm).symm

/-- Of a map that is not injective, the indices above 0 hold different values exactly when index 0 and one other are the
only two that collide. -/
theorem injOn_compl_zero_iff {f : Byte → Byte} (h : ¬ Function.Injective f) : Set.InjOn f {0x00}ᶜ ↔
    ∃ j, j ≠ 0x00 ∧ f j = f 0x00 ∧ ∀ x y : Byte, x.toNat < y.toNat → f x = f y → x = 0x00 ∧ y = j := by
  constructor
  · intro hinj
    have hcollide : ∃ j, j ≠ 0x00 ∧ f j = f 0x00 := by
      by_contra hnone
      push Not at hnone
      refine h fun a b hab => ?_
      by_cases ha : a = 0x00 <;> by_cases hb : b = 0x00
      · rw [ha, hb]
      · exact absurd (ha ▸ hab.symm) (hnone b hb)
      · exact absurd (hb ▸ hab) (hnone a ha)
      · exact hinj ha hb hab
    obtain ⟨j, hj, hj0⟩ := hcollide
    refine ⟨j, hj, hj0, fun x y hlt hxy => ?_⟩
    have hy : y ≠ 0x00 := by rintro rfl; exact absurd hlt (Nat.not_lt_zero _)
    have hx : x = 0x00 := by
      by_contra hx
      rw [hinj hx hy hxy] at hlt
      exact lt_irrefl _ hlt
    exact ⟨hx, hinj hy hj (by rw [← hxy, hx, hj0])⟩
  · rintro ⟨j, _, _, honly⟩ a ha b hb hab
    obtain hlt | heq | hgt := Nat.lt_trichotomy a.toNat b.toNat
    · exact absurd (honly a b hlt hab).1 ha
    · exact BitVec.eq_of_toNat_eq heq
    · exact absurd (honly b a hgt hab.symm).1 hb

/-- T[0] = 0xFF, T[1] = T[0xFF] = 0x00 and T[x] = x elsewhere (assumption 7). -/
def collidingSelfSwap : List Byte := 0xFF :: 0x00 :: ((List.range' 2 253).map (BitVec.ofNat 8) ++ [0x00])

theorem bijective_collidingSelfSwap : bijective collidingSelfSwap = false := by decide +kernel

theorem swap_collidingSelfSwap : swap collidingSelfSwap = collidingSelfSwap := by decide +kernel

/-! ### The obligations -/

/-- Settles O32: the swap is injective exactly when the indices above 0 hold different values. -/
theorem swapBijectiveFromOneCollision : Obligations.SwapBijectiveFromOneCollision := by
  intro T hT hrep
  have hnot : ¬ Function.Injective (tableMap T) := fun h => by
    rw [(bijective_iff_tableMap_injective hT).mpr h] at hrep
    exact absurd hrep (by decide)
  rw [bijective_iff_tableMap_injective (swap_length T), tableMap_swap_injective_iff, injOn_compl_zero_iff hnot]
  constructor
  · rintro ⟨j, hj, hj0, honly⟩
    refine ⟨j.toNat, Nat.pos_of_ne_zero fun h => hj (BitVec.eq_of_toNat_eq h), j.isLt, hj0, ?_⟩
    have hpair : ∀ x < 256, ∀ y < 256, x < y → T.getD x 0 = T.getD y 0 → x = 0 ∧ y = j.toNat := by
      refine forall_byte_toNat_iff.mp fun v => forall_byte_toNat_iff.mp fun w hlt heq => ?_
      obtain ⟨rfl, rfl⟩ := honly v w hlt heq
      exact ⟨rfl, rfl⟩
    exact fun x y hlt hy => hpair x (hlt.trans hy) y hy hlt
  · rintro ⟨j, hpos, hj, hj0, honly⟩
    obtain ⟨j, rfl⟩ : ∃ v : Byte, v.toNat = j := ⟨BitVec.ofNat 8 j, by rw [BitVec.toNat_ofNat, Nat.mod_eq_of_lt hj]⟩
    refine ⟨j, fun h => absurd hpos (by simp [h]), hj0, fun x y hlt hxy => ?_⟩
    obtain ⟨hx, hy⟩ := honly x.toNat y.toNat hlt y.isLt hxy
    exact ⟨BitVec.eq_of_toNat_eq hx, BitVec.eq_of_toNat_eq hy⟩

/-- Refutes O33: the table above is not bijective, and is its own swap. -/
theorem not_nonBijectiveTableNeverSwapsBack : ¬ Obligations.NonBijectiveTableNeverSwapsBack := by
  intro h
  have hswap : swap (swap collidingSelfSwap) = collidingSelfSwap := by
    rw [swap_collidingSelfSwap, swap_collidingSelfSwap]
  exact h collidingSelfSwap (by simp [collidingSelfSwap]) bijective_collidingSelfSwap hswap

end Sys2Proof.Machine

/-! The lookups of the key schedule (42_key_schedule.md R163 to R165): the expansion reads its table at the bytes of the
word before every fourth one, and nowhere else. -/

namespace Sys2Proof.Machine

/-- Two tables agree at each byte of a word. -/
def AgreeOn (t u w : List Byte) : Prop := ∀ a ∈ w, t.getD a.toNat 0 = u.getD a.toNat 0

theorem agreeOn_of_getD {t u w : List Byte} {n : Nat} (hw : w.length = n)
    (h : ∀ j < n, t.getD (w.getD j 0).toNat 0 = u.getD (w.getD j 0).toNat 0) : AgreeOn t u w := by
  intro a ha
  obtain ⟨j, hj, rfl⟩ := List.mem_iff_getElem.mp ha
  have hbyte := h j (hw ▸ hj)
  rwa [List.getD_eq_getElem _ _ hj] at hbyte

/-- The substitution of a rotated word reads the table at the bytes of the word. -/
theorem subWord_rotWord_congr {t u w : List Byte} (h : AgreeOn t u w) :
    subWord (rotWord w) t = subWord (rotWord w) u := by
  refine List.map_congr_left fun a ha => h a ?_
  rwa [rotWord_eq_rotate, List.mem_rotate] at ha

/-- The next word reads the table only where its index is a multiple of 4, at the bytes of the word before it. -/
theorem nextWord_congr {t u : List Byte} {ws : List (List Byte)}
    (h : ws.length % 4 = 0 → AgreeOn t u (ws.getD (ws.length - 1) [])) : nextWord t ws = nextWord u ws := by
  rw [nextWord, nextWord]
  split
  case isTrue h4 => rw [subWord_rotWord_congr (h h4)]
  case isFalse => rfl

/-- Tables that agree at the words one of them looks up expand to the same words. -/
theorem expandWords_congr {t u : List Byte} (n : Nat) {ws : List (List Byte)} (hpos : 0 < ws.length)
    (h : ∀ i, ws.length ≤ i → i < ws.length + n → i % 4 = 0 → AgreeOn t u ((expandWords t n ws).getD (i - 1) [])) :
    expandWords t n ws = expandWords u n ws := by
  induction n generalizing ws with
  | zero => rfl
  | succ n ih =>
    have hnext : nextWord t ws = nextWord u ws := nextWord_congr fun h4 => by
      have hlast := h ws.length (le_refl _) (by omega) h4
      rwa [getD_eq_of_prefix (prefix_expandWords t (n + 1) ws) (by omega)] at hlast
    rw [expandWords, expandWords, ← hnext]
    refine ih (by simp) fun i hle hlt h4 => ?_
    rw [List.length_append, List.length_singleton] at hle hlt
    exact h i (by omega) (by omega) h4

/-- Settles O37: the words looked up are those at the indices 4n - 1, and the statement's lookups are their bytes. -/
theorem keyExpansionReadsOnlyItsLookups : Obligations.KeyExpansionReadsOnlyItsLookups := by
  intro K S S' _ _ _ hagree
  refine congrArg List.flatten (expandWords_congr 40 (by simp) fun i hle hlt h4 => ?_)
  rw [keyWords_length] at hle hlt
  have hword := length_getD_of_forall_length (i := i - 1)
    (length_of_mem_expandWords S 40 (keyWords_length K).ge (length_of_mem_keyWords K)) (by simp; omega)
  refine agreeOn_of_getD hword fun j hj => ?_
  have hlookup := hagree (i / 4) j (by omega) (by omega) hj
  rwa [keyExpansion_getD K S _ hj, Nat.mul_div_cancel' (Nat.dvd_of_mod_eq_zero h4)] at hlookup

end Sys2Proof.Machine

/-! The layers of a round that undo each other (43_round_function.md R183 to R188), the two block commands one after the
other on the engine (R200, R201), and what the two CBC commands leave (44_cbc.md R230 to R233). -/

namespace Sys2Proof.Machine

open Sys2Proof.Safety

/-! ### The layers -/

theorem shiftRows_invShiftRows {b : List Byte} (hb : b.length = 16) : shiftRows (invShiftRows b) = b := by
  refine block_ext (by simp) hb fun k hk => ?_
  rw [shiftRows_getD _ hk, invShiftRows_getD _ (by omega)]
  congr 1
  omega

theorem rowMul_mixRow_invMixRow : rowMul mixRow invMixRow = unitRow := by decide

theorem mixColumns_invMixColumns {b : List Byte} (hb : b.length = 16) : mixColumns (invMixColumns b) = b := by
  refine block_ext_column (by simp) hb fun c hc => ?_
  rw [column_mixColumns _ hc, column_invMixColumns b hc, circulantMul_circulantMul, rowMul_mixRow_invMixRow,
    circulantMul_unitRow]

/-! ### The block commands one after the other -/

/-- ENC_BLOCK's outcome where SBOX is bijective. -/
theorem exec_encBlock_of_bijective {s : State} (hbij : bijective s.sbox = true) :
    exec .encBlock s = .next (s.setBlk (cipher s.blk s.expkey s.sbox)).succeed := by
  rw [exec_eq, outcome, blkThrough, if_pos hbij, State.complete_ok]

/-- DEC_BLOCK's outcome where ISBOX is bijective. -/
theorem exec_decBlock_of_bijective {s : State} (hbij : bijective s.isbox = true) :
    exec .decBlock s = .next (s.setBlk (invCipher s.blk s.expkey s.isbox)).succeed := by
  rw [exec_eq, outcome, blkThrough, if_pos hbij, State.complete_ok]

section
variable (s : State) {vs : List Byte} (h : vs.length = 16)
include h

theorem State.blk_setBlk : (s.setBlk vs).succeed.blk = vs :=
  (State.loadBlock_congr (s := s.setBlk vs) rfl rfl 0x0040 16).trans (State.loadBlock_storeBlock_self _ _ _ h)

/-- A store to BLK leaves every block that ends before it or begins after it. -/
theorem State.loadBlock_setBlk {b n : Nat} (hb : b + n ≤ 0x0040 ∨ 0x0050 ≤ b) :
    (s.setBlk vs).succeed.loadBlock b n = s.loadBlock b n :=
  (State.loadBlock_congr (s := s.setBlk vs) rfl rfl b n).trans
    (State.loadBlock_storeBlock_other _ _ (by rw [h]; exact hb))

end

/-! ### The CBC commands -/

theorem State.cbcDone_result (s : State) (ek out : List Byte) (n : Nat) : (s.cbcDone ek out n).result = s.result := rfl

/-- The bytes a CBC command leaves, in the order of the statements. -/
theorem State.read_cbcDone (s : State) {ek : List Byte} (hek : ek.length = 176) (out : List Byte) (n a : Nat) :
    Memory.read (s.cbcDone ek out n).mem a =
      if 0x0300 ≤ a ∧ a ≤ 0x03AF then some (ek.getD (a - 0x0300) 0)
      else if 0x8000 ≤ a ∧ a < 0x8000 + out.length then some (out.getD (a - 0x8000) 0)
      else Memory.read s.mem a := by
  refine (s.read_setExpkey_setDout ek out a).trans ?_
  rw [hek]
  by_cases hexp : 0x0300 ≤ a ∧ a ≤ 0x03AF
  · rw [if_pos hexp, if_neg (by omega), if_pos (by omega)]
  · rw [if_neg hexp, if_neg (by omega : ¬ (0x0300 ≤ a ∧ a < 0x0300 + 176))]

/-! ### The obligations -/

/-- Settles O45: each clause is a layer undone. -/
theorem inverseLayersUndoTheLayers : Obligations.InverseLayersUndoTheLayers := fun B EK _ hB _ hS hbij =>
  ⟨invShiftRows_shiftRows hB, shiftRows_invShiftRows hB, invMixColumns_mixColumns hB, mixColumns_invMixColumns hB,
    substitute_substitute_swap hS hbij B, fun r _ => addRoundKey_addRoundKey hB EK r⟩

/-- Settles O47: ENC_BLOCK leaves EXPKEY and ISBOX, and decryption inverts encryption under any expanded key. -/
theorem encryptThenDecryptRestoresBlk : Obligations.EncryptThenDecryptRestoresBlk := by
  intro s t hdist hisbox hexec
  have hbij := (bijective_sbox_iff s).mpr hdist
  obtain ⟨_, _, hbij', _⟩ := swapInvertsABijectiveTable s.sbox s.sbox_length hbij
  obtain rfl := Host.Outcome.next.inj ((exec_encBlock_of_bijective hbij).symm.trans hexec)
  have hlen : (cipher s.blk s.expkey s.sbox).length = 16 := cipher_length _ _ _
  have hblk := s.blk_setBlk hlen
  have hexpkey : (s.setBlk (cipher s.blk s.expkey s.sbox)).succeed.expkey = s.expkey :=
    s.loadBlock_setBlk hlen (.inr (by decide))
  have hinverse : (s.setBlk (cipher s.blk s.expkey s.sbox)).succeed.isbox = swap s.sbox :=
    (s.loadBlock_setBlk hlen (.inr (by decide))).trans hisbox
  refine ⟨_, exec_decBlock_of_bijective (hinverse ▸ hbij'), State.succeeded_storeBlock _ _ _, fun k hk => ?_⟩
  rw [← State.blk_getD _ hk, State.blk_setBlk _ (invCipher_length _ _ _), hblk, hexpkey, hinverse,
    invCipher_cipher s.sbox_length hbij s.expkey s.blk_length, State.blk_getD s hk]

/-- Settles O54: CBC_ENC fails on the length first, then on SBOX, and otherwise leaves EXPKEY, DOUT and OUTLEN. -/
theorem cbcEncOutcome : Obligations.CbcEncOutcome := by
  intro s hwf L N
  refine ⟨fun hlen => ?_, fun hlen hrep => ?_, fun hlen hdist => ?_⟩
  · exact exec_of_outcome_error (e := .capacityExceeded) (if_pos hlen)
  · exact exec_of_outcome_error ((outcome_eq_nonBijectiveSbox_iff s .cbcEnc).mpr (.inl ⟨.inr ⟨rfl, hlen⟩, hrep⟩))
  · have hexec := exec_cbcEnc_of_bijective hlen ((bijective_sbox_iff s).mpr hdist)
    refine ⟨_, hexec, s.succeeded_cbcDone _ _ _, s.cbcDone_result _ _ _, ?_, fun a => ?_⟩
    · rw [(outLen_and_dout_of_cbcEnc hwf hlen ((bijective_sbox_iff s).mpr hdist) hexec).1, pad_din_length]
    · rw [s.read_cbcDone (keyExpansion_length _ _), cbcEncryptBlocks_pad_din_length]

/-- Settles O55: CBC_DEC fails on the length twice, then on ISBOX, and otherwise leaves EXPKEY, DOUT and OUTLEN. -/
theorem cbcDecOutcome : Obligations.CbcDecOutcome := by
  intro s L EK D
  refine ⟨fun h16 => ?_, fun h16 hlen => ?_, fun h16 hlen hrep => ?_, fun h16 hlen hdist => ?_⟩
  · exact exec_of_outcome_error (e := .invalidLength) (if_pos h16)
  · exact exec_of_outcome_error (e := .capacityExceeded) ((if_neg (not_not.mpr h16)).trans (if_pos hlen))
  · exact exec_of_outcome_error
      ((outcome_eq_nonBijectiveSbox_iff s .cbcDec).mpr (.inr ⟨.inr ⟨rfl, h16, hlen⟩, hrep⟩))
  · have hD : D.length = L := cbcDecryptBlocks_din_length s EK s.isbox h16
    refine ⟨_, exec_cbcDec_of_bijective h16 hlen ((bijective_isbox_iff s).mpr hdist) rfl, s.succeeded_cbcDone _ _ _,
      s.cbcDone_result _ _ _, ?_, fun a => ?_⟩
    · rw [State.cbcDone_outLen, BitVec.toNat_ofNat, Nat.mod_eq_of_lt]
      exact lt_of_le_of_lt ((unpadLen_le D).trans hD.le) s.len.isLt
    · rw [s.read_cbcDone (keyExpansion_length _ _), ← hD]

end Sys2Proof.Machine

/-! The engine seen from its port over a whole command (10_state.md R22 to R29; 20_memory.md R66 to R70; 30_encoding.md
R92, R93; 70_reset_and_hazards.md R281, R285, R296): what idle reads return, which fields a command's outcome does not
depend on, and the runs from acceptance to completion. -/

namespace Sys2Proof.Machine

open Sys2Proof.Safety

/-! ### Idle reads (R24, R68) -/

theorem idleByte_item {s : State} {a : Nat} {it : Item} (h : itemAt s.capacity a = some it) :
    s.idleByte a = s.itemByte it (a - it.base) := by
  rw [State.idleByte, h]

theorem itemByte_of_isStore (s : State) {it : Item} (h : it.isStore = true) (k : Nat) :
    s.itemByte it k = s.load (it.base + k) := by
  cases it with
  | matrix | const | key | iv | blk | sbox | isbox | expkey | din | dout => rfl
  | _ => exact absurd h Bool.false_ne_true

/-- An address of a data store names one. -/
theorem itemAt_store {s : State} {a : Nat} (hb : BufBytes.wf s.bufBytes.toNat = true)
    (h : IsHostStore s a ∨ IsEngineStore s a) : ∃ it, itemAt s.capacity a = some it ∧ it.isStore = true := by
  obtain h | ⟨hlo, hhi⟩ | ⟨hlo, hhi⟩ := h
  · obtain ⟨it, hit, _, hst⟩ := itemAt_hostStore hb h
    exact ⟨it, hit, hst⟩
  · exact ⟨.expkey, (itemAt_eq_some_iff hb).mpr ⟨hlo, Nat.lt_succ_of_le hhi⟩, rfl⟩
  · exact ⟨.dout, (itemAt_eq_some_iff hb).mpr ⟨hlo, hhi⟩, rfl⟩

/-- An idle read of a data store returns its byte. -/
theorem idleByte_store {s : State} {a : Nat} (hb : BufBytes.wf s.bufBytes.toNat = true)
    (h : IsHostStore s a ∨ IsEngineStore s a) : s.idleByte a = s.load a := by
  obtain ⟨it, hit, hst⟩ := itemAt_store hb h
  rw [idleByte_item hit, itemByte_of_isStore s hst, Nat.add_sub_cancel' (holds_of_itemAt hit).1]

/-! ### What a command's outcome does not depend on -/

/-- A state with other values of OVR and of the model's own fields, which no command reads or writes but for the free
values that hang on the epoch. -/
def State.withRest (s : State) (o : Bool) (es : List Event) (d : Option Byte) (n e : Nat) : State :=
  { s with ovr := o, schedule := es, busData := d, draws := n, epoch := e }

section
variable {s : State} {o : Bool} {es : List Event} {d : Option Byte} {n e : Nat}

/-- A byte reads the same at another epoch where it is defined. -/
theorem State.load_withRest {a : Nat} (h : e = s.epoch ∨ s.defined a 1 = true) :
    (s.withRest o es d n e).load a = s.load a := by
  obtain rfl | hdef := h
  · rfl
  · obtain ⟨v, hv⟩ := Option.isSome_iff_exists.mp (State.defined_iff.mp hdef 0 Nat.one_pos)
    exact (State.load_of_defined (s := s.withRest o es d n e) hv).trans (State.load_of_defined hv).symm

theorem State.loadBlock_withRest {base k : Nat} (h : e = s.epoch ∨ s.defined base k = true) :
    (s.withRest o es d n e).loadBlock base k = s.loadBlock base k := by
  refine List.map_congr_left fun j hj => State.load_withRest (h.imp_right fun hdef => State.defined_iff.mpr ?_)
  intro k' hk'
  obtain rfl := Nat.lt_one_iff.mp hk'
  exact State.defined_iff.mp hdef j (List.mem_range.mp hj)

theorem State.matrix_withRest (h : e = s.epoch ∨ s.defined 0x0010 8 = true) :
    (s.withRest o es d n e).matrix = s.matrix := State.loadBlock_withRest h

theorem State.const_withRest (h : e = s.epoch ∨ s.defined 0x0018 1 = true) :
    (s.withRest o es d n e).const = s.const := State.load_withRest h

theorem State.key_withRest (h : e = s.epoch ∨ s.defined 0x0020 16 = true) :
    (s.withRest o es d n e).key = s.key := State.loadBlock_withRest h

theorem State.iv_withRest (h : e = s.epoch ∨ s.defined 0x0030 16 = true) :
    (s.withRest o es d n e).iv = s.iv := State.loadBlock_withRest h

theorem State.blk_withRest (h : e = s.epoch ∨ s.defined 0x0040 16 = true) :
    (s.withRest o es d n e).blk = s.blk := State.loadBlock_withRest h

theorem State.sbox_withRest (h : e = s.epoch ∨ s.defined 0x0100 256 = true) :
    (s.withRest o es d n e).sbox = s.sbox := State.loadBlock_withRest h

theorem State.isbox_withRest (h : e = s.epoch ∨ s.defined 0x0200 256 = true) :
    (s.withRest o es d n e).isbox = s.isbox := State.loadBlock_withRest h

theorem State.expkey_withRest (h : e = s.epoch ∨ s.defined 0x0300 176 = true) :
    (s.withRest o es d n e).expkey = s.expkey := State.loadBlock_withRest h

theorem State.din_withRest {k : Nat} (h : e = s.epoch ∨ s.defined 0x4000 k = true) :
    (s.withRest o es d n e).din k = s.din k := State.loadBlock_withRest h

/-- The outcome of a block store does not depend on those fields. -/
theorem ok_storeBlock_withRest (base : Nat) (vs : List Byte) :
    (.ok ((s.withRest o es d n e).storeBlock base vs) : CmdResult) =
      Except.map (·.withRest o es d n e) (.ok (s.storeBlock base vs)) := rfl

/-- An outcome that checks a condition first, where the outcomes on both sides of it do not depend on those fields. -/
theorem ite_withRest {c : Prop} [Decidable c] {r r' q q' : CmdResult}
    (hr : r' = r.map (·.withRest o es d n e)) (hq : q' = q.map (·.withRest o es d n e)) :
    (if c then r' else q') = (if c then r else q).map (·.withRest o es d n e) := by
  rw [hr, hq, apply_ite (Except.map _)]

theorem blkThrough_withRest (table out : List Byte) :
    blkThrough (s.withRest o es d n e) table out = (blkThrough s table out).map (·.withRest o es d n e) :=
  ite_withRest (ok_storeBlock_withRest _ _) rfl

theorem cbcEncWrites_withRest (hdin : e = s.epoch ∨ s.defined 0x4000 s.len.toNat = true)
    (hkey : e = s.epoch ∨ s.defined 0x0020 16 = true) (hiv : e = s.epoch ∨ s.defined 0x0030 16 = true)
    (hsbox : e = s.epoch ∨ s.defined 0x0100 256 = true) :
    cbcEncWrites (s.withRest o es d n e) = (cbcEncWrites s).withRest o es d n e := by
  have hlen : (s.withRest o es d n e).len = s.len := rfl
  simp only [cbcEncWrites, hlen, State.din_withRest hdin, State.key_withRest hkey, State.iv_withRest hiv,
    State.sbox_withRest hsbox]
  rfl

theorem cbcDecWrites_withRest (hdin : e = s.epoch ∨ s.defined 0x4000 s.len.toNat = true)
    (hkey : e = s.epoch ∨ s.defined 0x0020 16 = true) (hiv : e = s.epoch ∨ s.defined 0x0030 16 = true)
    (hisbox : e = s.epoch ∨ s.defined 0x0200 256 = true) :
    cbcDecWrites (s.withRest o es d n e) = (cbcDecWrites s).withRest o es d n e := by
  have hlen : (s.withRest o es d n e).len = s.len := rfl
  simp only [cbcDecWrites, hlen, State.din_withRest hdin, State.key_withRest hkey, State.iv_withRest hiv,
    State.isbox_withRest hisbox]
  rfl

/-- A command's outcome does not depend on those fields, where the epoch is the same or the command's row of R285 is
defined. -/
theorem outcome_withRest {i : Instr} (h : e = s.epoch ∨ inputsDefined i s = true) :
    outcome i (s.withRest o es d n e) = (outcome i s).map (·.withRest o es d n e) := by
  cases i <;> simp only [inputsDefined, Bool.and_eq_true, or_and_left] at h
  case nop | gfMul | gfInv | gfMul2 | gfMul3 | gfMul9 | gfMul11 | gfMul13 | gfMul14 => rfl
  case genSbox =>
    obtain ⟨hmatrix, hconst⟩ := h
    rw [outcome, State.matrix_withRest hmatrix, State.const_withRest hconst, outcome]
    exact ok_storeBlock_withRest _ _
  case genInvSbox =>
    rw [outcome, State.sbox_withRest h, outcome]
    exact ok_storeBlock_withRest _ _
  case genFwdFromInv =>
    rw [outcome, State.isbox_withRest h, outcome]
    exact ok_storeBlock_withRest _ _
  case keyExpand =>
    obtain ⟨hkey, hsbox⟩ := h
    rw [outcome, keyExpand, State.key_withRest hkey, State.sbox_withRest hsbox, outcome]
    exact ite_withRest (ok_storeBlock_withRest _ _) rfl
  case encBlock =>
    obtain ⟨⟨hblk, hexpkey⟩, hsbox⟩ := h
    rw [outcome, State.blk_withRest hblk, State.expkey_withRest hexpkey, State.sbox_withRest hsbox, outcome]
    exact blkThrough_withRest _ _
  case decBlock =>
    obtain ⟨⟨hblk, hexpkey⟩, hisbox⟩ := h
    rw [outcome, State.blk_withRest hblk, State.expkey_withRest hexpkey, State.isbox_withRest hisbox, outcome]
    exact blkThrough_withRest _ _
  case subBytes =>
    obtain ⟨hblk, hsbox⟩ := h
    rw [outcome, State.blk_withRest hblk, State.sbox_withRest hsbox, outcome]
    exact blkThrough_withRest _ _
  case invSubBytes =>
    obtain ⟨hblk, hisbox⟩ := h
    rw [outcome, State.blk_withRest hblk, State.isbox_withRest hisbox, outcome]
    exact blkThrough_withRest _ _
  case shiftRows | mixColumns | invShiftRows | invMixColumns =>
    rw [outcome, State.blk_withRest h, outcome]
    exact ok_storeBlock_withRest _ _
  case addRoundKey =>
    obtain ⟨hblk, hexpkey⟩ := h
    rw [outcome, addRoundKeyByOpa, State.blk_withRest hblk, State.expkey_withRest hexpkey, outcome]
    exact ite_withRest rfl (ok_storeBlock_withRest _ _)
  case cbcEnc =>
    obtain ⟨⟨⟨hdin, hkey⟩, hiv⟩, hsbox⟩ := h
    rw [outcome, cbcEnc, State.sbox_withRest hsbox, cbcEncWrites_withRest hdin hkey hiv hsbox]
    exact ite_withRest rfl (ite_withRest rfl rfl)
  case cbcDec =>
    obtain ⟨⟨⟨hdin, hkey⟩, hiv⟩, hisbox⟩ := h
    rw [outcome, cbcDec, State.isbox_withRest hisbox, cbcDecWrites_withRest hdin hkey hiv hisbox]
    exact ite_withRest rfl (ite_withRest rfl (ite_withRest rfl rfl))

/-- So it is with the completion. -/
theorem complete_withRest {i : Instr} (h : e = s.epoch ∨ inputsDefined i s = true) :
    (s.withRest o es d n e).complete (outcome i (s.withRest o es d n e)) =
      (s.complete (outcome i s)).withRest o es d n e := by
  rw [outcome_withRest h]
  cases outcome i s <;> rfl

end

/-- A completion writes none of those fields. -/
theorem kept_complete_outcome (i : Instr) (s : State) : Kept s (s.complete (outcome i s)) := by
  obtain ⟨t, hok, ht⟩ | ⟨e, _, ht⟩ := s.complete_cases (outcome i s) <;> rw [ht]
  · have hkept := kept_of_outcome_ok hok
    exact hkept
  · exact ⟨rfl, rfl, rfl, rfl, rfl, rfl, rfl, rfl, rfl, rfl⟩

/-! ### The runs from acceptance to completion -/

/-- The unit's turn ends the command in flight, legal or not. -/
theorem step_of_unitsTurn_ends {s : State} (hb : s.busy = true) (h : UnitsTurn s.schedule) :
    ∃ t, step s = .next t ∧ t.busy = false ∧ t.doneFlag = true ∧ t.lastCmd = s.lastCmd := by
  by_cases hd : ∃ i, decode s.lastCmd = .ok i
  · obtain ⟨i, hi⟩ := hd
    obtain ⟨t, ht, hbusy, hdone, hcmd, _⟩ := everyCommandCompletes i (s.setSchedule s.schedule.tail)
    exact ⟨t, (step_runs_command hb hi h).trans ht, hbusy, hdone, hcmd⟩
  · exact ⟨_, step_illegalCommand hb (not_exists.mp hd) h, rfl, rfl, rfl⟩

/-- The unit's turn after host transactions leaves the state it would leave at once, but for OVR and the model's own
fields. -/
theorem step_withRest_completes {s : State} (o : Bool) {later : List Event} (d : Option Byte) (n : Nat)
    (hb : s.busy = true) (hl : UnitsTurn later) :
    ∃ u : State, step (s.withRest o later d n s.epoch) = .next (u.withRest o later.tail d n u.epoch) ∧
      (∀ i, decode s.lastCmd = .ok i → exec i s = .next u) ∧
      ((∀ i, decode s.lastCmd ≠ .ok i) → FailedWith s u 0x04) := by
  by_cases hd : ∃ i, decode s.lastCmd = .ok i
  · obtain ⟨i, hi⟩ := hd
    obtain ⟨_, _, _, _, _, _, _, _, _, hepoch⟩ := kept_complete_outcome i s
    refine ⟨s.complete (outcome i s), ?_, fun j hj => ?_, fun hnone => absurd hi (hnone i)⟩
    · calc step (s.withRest o later d n s.epoch)
          = exec i (s.withRest o later.tail d n s.epoch) := step_runs_command hb hi hl
        _ = .next ((s.complete (outcome i s)).withRest o later.tail d n s.epoch) := by
          rw [exec_eq, complete_withRest (.inl rfl)]
        _ = .next ((s.complete (outcome i s)).withRest o later.tail d n (s.complete (outcome i s)).epoch) := by
          rw [hepoch]
    · obtain rfl : i = j := Except.ok.inj (hi.symm.trans hj)
      exact exec_eq i s
  · exact ⟨s.failWith .illegalCommand, step_illegalCommand hb (not_exists.mp hd) hl,
      fun i hi => absurd ⟨i, hi⟩ hd, fun _ => s.failedWith_failWith _⟩

/-- A host read or write while a command is in flight changes no item but OVR, which a write sets. -/
theorem step_busy_transaction {s : State} {ev : Event} {es : List Event} (hb : s.busy = true)
    (hev : (∃ a, ev = .read a) ∨ ∃ a v, ev = .write a v) (hs : s.schedule = ev :: es) :
    ∃ o d n, step s = .next (s.withRest o es d n s.epoch) ∧
      (o = true ↔ s.ovr = true ∨ ∃ a v, ev = .write a v) := by
  obtain ⟨a, rfl⟩ | ⟨a, v, rfl⟩ := hev
  · exact ⟨s.ovr, _, _, step_read_busy hb hs, by simp⟩
  · exact ⟨true, _, _, step_write_busy hb hs, by simp⟩

/-- A run of them leaves the command in flight, and OVR set if it was or a write came. -/
theorem run_busy_transactions (es : List Event)
    (hes : ∀ ev ∈ es, (∃ a, ev = .read a) ∨ ∃ a v, ev = .write a v) :
    ∀ {s : State} {later : List Event} (k : Nat), s.busy = true → s.schedule = es ++ later →
    ∃ o d n, core.run (es.length + k) s = core.run k (s.withRest o later d n s.epoch) ∧
      (o = true ↔ s.ovr = true ∨ ∃ a v, Event.write a v ∈ es) := by
  induction es with
  | nil =>
    intro s later k _ hs
    obtain rfl : s.schedule = later := hs
    exact ⟨s.ovr, s.busData, s.draws, by rw [List.length_nil, Nat.zero_add]; rfl, by simp⟩
  | cons ev es ih =>
    intro s later k hb hs
    obtain ⟨hev, hes⟩ := List.forall_mem_cons.mp hes
    obtain ⟨o, d, n, hstep, ho⟩ := step_busy_transaction (es := es ++ later) hb hev hs
    obtain ⟨o', d', n', hrun, ho'⟩ := ih hes (s := s.withRest o (es ++ later) d n s.epoch) k hb rfl
    refine ⟨o', d', n', ?_, ?_⟩
    · rw [List.length_cons, Nat.add_right_comm]
      exact (core_run_succ hstep _).trans hrun
    · rw [ho', State.withRest, ho, or_assoc]
      simp only [List.mem_cons, exists_or, eq_comm]

/-! ### The obligations -/

/-- Settles O13: each address names the item whose byte the read returns. -/
theorem idleReadReturnsTheItem : Obligations.IdleReadReturnsTheItem := by
  intro s a rest hb hbuf hs
  have register {k : Nat} {it : Item} (hit : itemAt s.capacity k = some it) (ha : a.toNat = k) :
      s.idleByte a.toNat = s.itemByte it (k - it.base) := by rw [ha, idleByte_item hit]
  refine ⟨_, step_read_idle hb hs, register (it := .cmd) rfl, register (it := .status) rfl,
    register (it := .errcode) rfl, register (it := .opa) rfl, register (it := .opb) rfl, register (it := .result) rfl,
    fun ha => ?_, fun ha => ?_, fun ha => ?_, fun ha => ?_, fun ha => ?_, fun ha => ?_, idleByte_store hbuf,
    idleByte_constTable s, idleByte_reserved⟩
  · rw [register (it := .len) rfl ha]; exact wordByte_zero_toNat s.len
  · rw [register (it := .len) rfl ha]; exact wordByte_one_toNat s.len
  · rw [register (it := .outlen) rfl ha]; exact wordByte_zero_toNat s.outLen
  · rw [register (it := .outlen) rfl ha]; exact wordByte_one_toNat s.outLen
  · rw [register (it := .bufsz) rfl ha]; exact wordByte_zero_toNat s.bufBytes
  · rw [register (it := .bufsz) rfl ha]; exact wordByte_one_toNat s.bufBytes

/-- Settles O18: STATUS is assembled from these bits, and the check of a defined table is that it has no repeat. -/
theorem statusBits : Obligations.StatusBits := by
  intro s
  have bit {i : Nat} (hi : i < 8) :=
    byteOfBits_getLsbD [s.busy, s.doneFlag, s.err, s.ovr, s.sboxBij, s.isboxBij, false, false] hi
  refine ⟨bit (by decide), bit (by decide), bit (by decide), bit (by decide), bit (by decide), bit (by decide),
    fun hdef => ?_, fun hdef => ?_⟩
  · rw [statusByte_getLsbD_four, State.sboxBij_of_defined hdef, bijective_sbox_iff]
  · rw [statusByte_getLsbD_five, State.isboxBij_of_defined hdef, bijective_isbox_iff]

/-- Settles O22: another epoch is another value of a field the outcome does not depend on. -/
theorem definedInputsFixTheOutcome : Obligations.DefinedInputsFixTheOutcome := by
  intro i s e hdef
  refine ⟨_, exec_eq i s, (exec_eq i _).trans (congrArg _ ?_)⟩
  obtain ⟨_, hovr, _, _, _, _, hsched, hdata, hdraws, _⟩ := kept_complete_outcome i s
  calc (s.withRest s.ovr s.schedule s.busData s.draws e).complete
        (outcome i (s.withRest s.ovr s.schedule s.busData s.draws e))
      = (s.complete (outcome i s)).withRest s.ovr s.schedule s.busData s.draws e := complete_withRest (.inr hdef)
    _ = { s.complete (outcome i s) with epoch := e } := by
      rw [← hovr, ← hsched, ← hdata, ← hdraws]
      rfl

/-- Settles O59: the events before the completion leave all but OVR and the model's own fields, on which the outcome
does not depend. -/
theorem latencyDoesNotMatter : Obligations.LatencyDoesNotMatter := by
  intro s es later hb hes hl hs
  obtain ⟨o, d, n, hrun, ho⟩ := run_busy_transactions es hes 1 hb hs
  obtain ⟨u, hstep, hlegal, hillegal⟩ := step_withRest_completes o d n hb hl
  exact ⟨u.withRest o later.tail d n u.epoch, u, hrun.trans (core_run_succ hstep 0), hlegal, hillegal, rfl, ho⟩

/-- Settles O60: by induction on the events to come; a read or a write leaves the command in flight, every other event
ends it. -/
theorem everyAcceptedCommandEnds : Obligations.EveryAcceptedCommandEnds := by
  intro s hb
  induction hs : s.schedule generalizing s with
  | nil =>
    obtain ⟨t, hstep, hbusy, hdone, hcmd⟩ := step_of_unitsTurn_ends hb (.inl hs)
    exact ⟨1, le_refl _, t, core_run_succ hstep 0, hbusy, .inl ⟨hdone, hcmd⟩⟩
  | cons ev es ih =>
    have waits (hev : (∃ a, ev = .read a) ∨ ∃ a v, ev = .write a v) : ∃ k ≤ (ev :: es).length + 1, ∃ t : State,
        core.run k s = .next t ∧ t.busy = false ∧
          ((t.doneFlag = true ∧ t.lastCmd = s.lastCmd) ∨ Event.reset ∈ (ev :: es).take k) := by
      obtain ⟨o, d, n, hstep, _⟩ := step_busy_transaction hb hev hs
      obtain ⟨k, hk, t, hrun, hbusy, hend⟩ := ih (s.withRest o es d n s.epoch) hb rfl
      exact ⟨k + 1, Nat.succ_le_succ hk, t, (core_run_succ hstep k).trans hrun, hbusy,
        hend.imp_right (List.mem_cons_of_mem ev)⟩
    cases ev with
    | read a => exact waits (.inl ⟨a, rfl⟩)
    | write a v => exact waits (.inr ⟨a, v, rfl⟩)
    | reset =>
      exact ⟨1, by simp, _, core_run_succ (step_reset hs) 0, rfl, .inr List.mem_cons_self⟩
    | complete =>
      obtain ⟨t, hstep, hbusy, hdone, hcmd⟩ := step_of_unitsTurn_ends hb (.inr (by rw [hs, List.head?_cons]))
      exact ⟨1, by simp, t, core_run_succ hstep 0, hbusy, .inl ⟨hdone, hcmd⟩⟩

end Sys2Proof.Machine
